-- ==== Sys2Proof/Word.lean ====
section
/-! DEFINITION. The widths the spec gives its values (00_scope.md R8, R9; 10_state.md R44). Every one is unsigned. -/

namespace Sys2Proof

/-- A byte, bits 7..0, unsigned (R8, R9): a register, a control-bus value, one attribute-table entry. -/
abbrev Byte := BitVec 8

/-- A 16-bit cylinder number (R63). -/
abbrev Cylinder := BitVec 16

/-- A 32-bit unsigned duration, elapsed time or time increment (R44, R53). -/
abbrev Time := BitVec 32

/-- A device id, 0..7 (R6, R21). -/
abbrev DeviceId := BitVec 3

end Sys2Proof
end

