-- ==== Sys2Proof/Syntax.lean ====
section
/-! DEFINITION. The instructions: the 23 named commands and the unrecognized fallback (30_encoding.md R80, R85, R86;
spec/opcode_table.json), in the table's order. -/

namespace Sys2Proof

/-- One command of the opcode table. A command has no operand inside its code byte (R80); what it works on are the
latched registers. `unrecognized` keeps the code byte that no named command has (R86, R87). -/
inductive Instr where
  | loadCylAddrHigh
  | loadCylAddrLow
  | loadAttributeNumber
  | loadAttribute
  | loadTestByte
  | selectHead
  | attentionControl
  | writeControl
  | selectiveReset
  | reformatTrack
  | spinControl
  | reportGeneralStatus
  | reportSenseByte1
  | reportSenseByte2
  | reportCylAddrHigh
  | reportCylAddrLow
  | reportTestByte
  | reportAttribute
  | clearFault
  | clearAttention
  | seek
  | rezero
  | setAttention
  | unrecognized (code : Byte)
  deriving DecidableEq, Repr

end Sys2Proof
end

