-- ==== Sys2Proof/Config.lean ====
section
/-! DEFINITION. The interface types (the line sample, 10_state.md R51; the environment's inputs, R53 and 60_exceptions.md
R232), the parameters of the step (00_scope.md R5, 10_state.md R55) and the free values, which have no body. -/

namespace Sys2Proof

/-- The bus-direction indicator (R10): `h2d` the host drives the bus, `d2h` the device drives it. -/
inductive Dir where
  | h2d
  | d2h
  deriving DecidableEq, Repr, Inhabited

/-- One cycle's input sample (R51). Every flag is a logical level, `true` when the signal is asserted (R10). When
`dir = d2h` the byte `bus` is a draw, any byte under no law (R52): DESIGN CHOICE, it is the environment's, see log 1. -/
structure Sample where
  bus : Byte
  sel : Bool
  cmdReq : Bool
  paramReq : Bool
  dir : Dir
  enable : Bool
  readGate : Bool
  writeGate : Bool
  deriving DecidableEq, Repr, Inhabited

/-- `previous_pins` at reset (R260): all lines de-asserted, `dir = H2D`, `bus = 0x00`. -/
def Sample.allLow : Sample :=
  { bus := 0x00, sel := false, cmdReq := false, paramReq := false, dir := .h2d, enable := false,
    readGate := false, writeGate := false }

/-- The default cycle sample of the host notation (R94): `en=1`, every other line low, `dir=H`, `bus=00`. -/
def Sample.default : Sample := { Sample.allLow with enable := true }

/-- Which sense byte an operation works on: n in {1, 2} (R224). -/
inductive SenseByte where
  | one
  | two
  deriving DecidableEq, Repr, Inhabited

/-- What the environment does next: it presents one poll cycle's sample and time increment (R51, R53), or the fault
collaborator sets sense bits between two cycles (R232). -/
inductive Input where
  | cycle (sample : Sample) (dt : Time)
  | sense (n : SenseByte) (mask : Byte)
  deriving DecidableEq, Repr, Inhabited

/-- The disk-geometry profile (R5). `CYLINDERS` is an integer 1..65536 and `HEADS` an integer 1..256: each is held as its
largest legal number, so no value outside the range can be written (log 10). -/
structure Geometry where
  lastCylinder : Fin 65536
  lastHead : Fin 256
  sectorsPerTrack : Nat
  sectorSize : Nat
  deriving DecidableEq, Repr

/-- `CYLINDERS` (R5). -/
def Geometry.cylinders (g : Geometry) : Nat := g.lastCylinder.val + 1

/-- `HEADS` (R5). -/
def Geometry.heads (g : Geometry) : Nat := g.lastHead.val + 1

/-- `CMD_CODE`: the code byte of each of the 23 named commands (R84). -/
structure CodeMap where
  loadCylAddrHigh : Byte
  loadCylAddrLow : Byte
  loadAttributeNumber : Byte
  loadAttribute : Byte
  loadTestByte : Byte
  selectHead : Byte
  attentionControl : Byte
  writeControl : Byte
  selectiveReset : Byte
  reformatTrack : Byte
  spinControl : Byte
  reportGeneralStatus : Byte
  reportSenseByte1 : Byte
  reportSenseByte2 : Byte
  reportCylAddrHigh : Byte
  reportCylAddrLow : Byte
  reportTestByte : Byte
  reportAttribute : Byte
  clearFault : Byte
  clearAttention : Byte
  seek : Byte
  rezero : Byte
  setAttention : Byte
  deriving DecidableEq, Repr

/-- The six fixed durations, in the unit of `dt` (R209). -/
structure Durations where
  seek : Time
  rezero : Time
  setAttention : Time
  selectiveReset : Time
  reformatTrack : Time
  spinControl : Time
  deriving DecidableEq, Repr

/-- The parameters of the step (R5, R55). `ID` is a number here, since R6 has a model refuse one outside 0..7.
`FAULT_PRESENT(n, b)` (R231) is bit b of `faultPresent<n>` (log 6). -/
structure Config where
  deviceId : Nat
  geometry : Geometry
  codes : CodeMap
  durations : Durations
  sense2AttentionMask : Byte
  attentionEnableReset : Bool
  faultPresent1 : Byte
  faultPresent2 : Byte
  deriving DecidableEq, Repr

/-- The reference code map of R85. -/
def CodeMap.reference : CodeMap :=
  { loadCylAddrHigh := 0x00, loadCylAddrLow := 0x01, loadAttributeNumber := 0x02, loadAttribute := 0x03,
    loadTestByte := 0x04, selectHead := 0x05, attentionControl := 0x06, writeControl := 0x07,
    selectiveReset := 0x08, reformatTrack := 0x09, spinControl := 0x0A,
    reportGeneralStatus := 0x80, reportSenseByte1 := 0x81, reportSenseByte2 := 0x82, reportCylAddrHigh := 0x83,
    reportCylAddrLow := 0x84, reportTestByte := 0x85, reportAttribute := 0x86, clearFault := 0x87,
    clearAttention := 0x88, seek := 0x89, rezero := 0x8A, setAttention := 0x8B }

/-- The reference parameters of R5 (ATTR_INIT has none). -/
def Config.reference : Config :=
  { deviceId := 3
    geometry := { lastCylinder := 1023, lastHead := 7, sectorsPerTrack := 32, sectorSize := 512 }
    codes := CodeMap.reference
    durations := { seek := 3, rezero := 3, setAttention := 3, selectiveReset := 3, reformatTrack := 3, spinControl := 3 }
    sense2AttentionMask := 0xFF
    attentionEnableReset := true
    faultPresent1 := 0x00
    faultPresent2 := 0x00 }

/-- `ATTR_SIZE`, fixed (R5, R7). -/
abbrev attributeTableSize : Nat := 72

/-- `SB1_ATTN_MASK`, fixed (R5; 90_conflicts.md C4). -/
def sense1AttentionMask : Byte := 0xFF

/-- FREE VALUE. `ATTR_INIT` (R5, R62; OPEN): the table byte at an index, for a geometry. The spec gives no derivation, so
it has no body (log 5). -/
opaque Config.attrInit (g : Geometry) (index : Fin attributeTableSize) : Byte

/-- FREE VALUE. The n-th input the environment presents when `State.inputs` lists none: any input (R274), so it has no
body (log 2). -/
opaque Config.drawInput (n : Nat) : Input

end Sys2Proof
end

