-- ==== Sys2Proof/WellFormed.lean ====
section
/-! DEFINITION. What a well-formed instruction is, and which configurations the model accepts (00_scope.md R6,
30_encoding.md R84, 60_exceptions.md R234 BAD_CONFIG). -/

namespace Sys2Proof

/-- The codes of the parameter-out class commands (R85). -/
def CodeMap.paramOutCodes (m : CodeMap) : List Byte :=
  [m.loadCylAddrHigh, m.loadCylAddrLow, m.loadAttributeNumber, m.loadAttribute, m.loadTestByte, m.selectHead,
   m.attentionControl, m.writeControl, m.selectiveReset, m.reformatTrack, m.spinControl]

/-- The codes of the response class commands (R85). -/
def CodeMap.responseCodes (m : CodeMap) : List Byte :=
  [m.reportGeneralStatus, m.reportSenseByte1, m.reportSenseByte2, m.reportCylAddrHigh, m.reportCylAddrLow,
   m.reportTestByte, m.reportAttribute, m.clearFault, m.clearAttention, m.seek, m.rezero, m.setAttention]

/-- The image of `CMD_CODE`. -/
def CodeMap.codes (m : CodeMap) : List Byte := m.paramOutCodes ++ m.responseCodes

/-- R84 constraint 1: the map is injective. -/
def CodeMap.injective (m : CodeMap) : Bool := decide m.codes.Nodup

/-- R84 constraint 2: bit 7 is 0 exactly for the parameter-out class. -/
def CodeMap.classBitsAgree (m : CodeMap) : Bool :=
  m.paramOutCodes.all (fun c => !c.getLsbD 7) && m.responseCodes.all (fun c => c.getLsbD 7)

/-- R84 constraint 3: no command maps to 0xAA. -/
def CodeMap.avoidsAA (m : CodeMap) : Bool := !m.codes.contains 0xAA

/-- A code map that meets the three constraints of R84. -/
def CodeMap.admissible (m : CodeMap) : Bool := m.injective && m.classBitsAgree && m.avoidsAA

/-- R6: `ID` is in 0..7. -/
def Config.idInRange (c : Config) : Bool := decide (c.deviceId < 8)

/-- The configurations the model does not refuse (R234: BAD_CONFIG is an `ID` outside 0..7 or a broken constraint of R84). -/
def Config.admissible (c : Config) : Bool := c.idInRange && c.codes.admissible

/-- A well-formed instruction under a code map: an unrecognized code is one the map does not use (R86, R87). A named
command has no field that could be ill-formed. -/
def Instr.wf (m : CodeMap) : Instr → Bool
  | .loadCylAddrHigh => true
  | .loadCylAddrLow => true
  | .loadAttributeNumber => true
  | .loadAttribute => true
  | .loadTestByte => true
  | .selectHead => true
  | .attentionControl => true
  | .writeControl => true
  | .selectiveReset => true
  | .reformatTrack => true
  | .spinControl => true
  | .reportGeneralStatus => true
  | .reportSenseByte1 => true
  | .reportSenseByte2 => true
  | .reportCylAddrHigh => true
  | .reportCylAddrLow => true
  | .reportTestByte => true
  | .reportAttribute => true
  | .clearFault => true
  | .clearAttention => true
  | .seek => true
  | .rezero => true
  | .setAttention => true
  | .unrecognized c => !m.codes.contains c

end Sys2Proof
end

