-- ==== Sys2Proof/Decode.lean ====
section
/-! DEFINITION. Decoding and encoding of the command byte (30_encoding.md R80 to R88) and the two classifications of a
code (R82, R83). -/

namespace Sys2Proof

/-- The opcode table under a code map: each named command with its code (R84, R85), in the table's order. -/
def CodeMap.rows (m : CodeMap) : List (Byte × Instr) :=
  [(m.loadCylAddrHigh, .loadCylAddrHigh), (m.loadCylAddrLow, .loadCylAddrLow),
   (m.loadAttributeNumber, .loadAttributeNumber), (m.loadAttribute, .loadAttribute),
   (m.loadTestByte, .loadTestByte), (m.selectHead, .selectHead), (m.attentionControl, .attentionControl),
   (m.writeControl, .writeControl), (m.selectiveReset, .selectiveReset), (m.reformatTrack, .reformatTrack),
   (m.spinControl, .spinControl), (m.reportGeneralStatus, .reportGeneralStatus),
   (m.reportSenseByte1, .reportSenseByte1), (m.reportSenseByte2, .reportSenseByte2),
   (m.reportCylAddrHigh, .reportCylAddrHigh), (m.reportCylAddrLow, .reportCylAddrLow),
   (m.reportTestByte, .reportTestByte), (m.reportAttribute, .reportAttribute), (m.clearFault, .clearFault),
   (m.clearAttention, .clearAttention), (m.seek, .seek), (m.rezero, .rezero), (m.setAttention, .setAttention)]

/-- The command of the first row whose code is `c`, compared under the full mask 0xFF; `.unrecognized c` where no row
has it (R86). -/
def lookupCode (c : Byte) : List (Byte × Instr) → Instr
  | [] => .unrecognized c
  | (code, i) :: rows => if c = code then i else lookupCode c rows

/-- `Decode(c)` (R86): total on all 256 bytes. -/
def decode (m : CodeMap) (c : Byte) : Instr := lookupCode c m.rows

/-- Why a list of bytes holds no command. -/
inductive DecodeReject where
  /-- There is no byte: a command is one byte (R80). -/
  | noCommandByte
  deriving DecidableEq, Repr

/-- Decode the first command of a list of bytes, with the bytes after it (R80: every code is one byte). -/
def decodeBytes (m : CodeMap) : List Byte → Except DecodeReject (Instr × List Byte)
  | [] => .error .noCommandByte
  | c :: rest => .ok (decode m c, rest)

/-- `CMD_CODE(x)`, and the code itself for an unrecognized code (R84, R85). -/
def encode (m : CodeMap) : Instr → Byte
  | .loadCylAddrHigh => m.loadCylAddrHigh
  | .loadCylAddrLow => m.loadCylAddrLow
  | .loadAttributeNumber => m.loadAttributeNumber
  | .loadAttribute => m.loadAttribute
  | .loadTestByte => m.loadTestByte
  | .selectHead => m.selectHead
  | .attentionControl => m.attentionControl
  | .writeControl => m.writeControl
  | .selectiveReset => m.selectiveReset
  | .reformatTrack => m.reformatTrack
  | .spinControl => m.spinControl
  | .reportGeneralStatus => m.reportGeneralStatus
  | .reportSenseByte1 => m.reportSenseByte1
  | .reportSenseByte2 => m.reportSenseByte2
  | .reportCylAddrHigh => m.reportCylAddrHigh
  | .reportCylAddrLow => m.reportCylAddrLow
  | .reportTestByte => m.reportTestByte
  | .reportAttribute => m.reportAttribute
  | .clearFault => m.clearFault
  | .clearAttention => m.clearAttention
  | .seek => m.seek
  | .rezero => m.rezero
  | .setAttention => m.setAttention
  | .unrecognized c => c

/-- `command_is_param_out(c)`: bit 7, the type bit T, is 0 (R81, R82). -/
def commandIsParamOut (c : Byte) : Bool := !c.getLsbD 7

/-- `command_is_time_dependent(c)`: `c` is one of the six codes R83 lists. -/
def commandIsTimeDependent (m : CodeMap) (c : Byte) : Bool :=
  c == m.seek || c == m.rezero || c == m.setAttention || c == m.selectiveReset || c == m.reformatTrack
    || c == m.spinControl

/-- The bytes of the instruction whose bits are `w`, `nbits` of them, low byte first. A command is one byte (R80), so
what `nbits` leaves short of a byte is 0. -/
def wordBytes (nbits w : Nat) : List Byte :=
  let v := w % 2 ^ nbits
  (List.range (max 1 ((nbits + 7) / 8))).map (fun k => BitVec.ofNat 8 (v / 2 ^ (8 * k)))

/-- What the decoder reads from the instruction whose bits are `w`, under the reference code map, which is the one of
spec/opcode_table.json (R85): `none` where the bytes are not exactly one command. -/
def decodeTableWord (nbits w : Nat) : Option Instr :=
  match decodeBytes CodeMap.reference (wordBytes nbits w) with
  | .ok (i, []) => some i
  | .ok (_, _ :: _) => none
  | .error _ => none

end Sys2Proof
end

