-- ==== Sys2Proof/Machine/State.lean ====
section
/-! DEFINITION. The state of the engine (10_state.md section 1), the model's bookkeeping, the ways a step can stop, and
the state after boot reset (70_reset_and_hazards.md R260). -/

namespace Sys2Proof.Machine

/-- The model-level faults of R234. They are RECORDED in `State.modelFaults` and the run continues (R12 outcome 2): no
step answers `Outcome.fault`. -/
inductive Fault where
  /-- Recorded by the protocol check (R104): a read or write gate asserted in a handshake state. The device's behaviour
  is unchanged. Safe: a claim about a run takes "no fault recorded" as a premise (R50). -/
  | protocolViolation
  deriving DecidableEq, Repr

/-- Why a step has no meaning. -/
inductive Refusal where
  /-- Raised by an arm of `exec` whose instruction has no meaning yet; none has. Safe. -/
  | notModelled (mnemonic : String)
  /-- Raised by `step` (R6, R84, R234 BAD_CONFIG): `ID` is outside 0..7 or `CMD_CODE` breaks a constraint. Safe: the spec
  refuses such a configuration. -/
  | badConfig
  /-- Raised by the state rule of READING and WRITING (R121, R234): the sector data phase is out of scope. Safe: claims
  about such a run are unprovable. -/
  | dataPhaseUnmodelled
  deriving DecidableEq, Repr

/-- The ten protocol states, in the order of their ordinals (R22). -/
inductive ProtocolState where
  | disconnected
  | connected
  | selected
  | readCommand
  | awaitingParamOut
  | executeCommand
  | awaitingParamIn
  | awaitingTimeDependentCommand
  | reading
  | writing
  deriving DecidableEq, Repr

/-- `sched_action`: what a completing registration runs (R44, R200). -/
inductive SchedAction where
  | none
  | commitSeek (hi lo : Byte)
  | commitRezero
  deriving DecidableEq, Repr

/-- The attribute table's contents (R42, R60): (index, byte) pairs in the canonical form of `Memory.wf` (Ops.lean). -/
abbrev Memory := List Host.Cell

/-- What an attribute-table entry that no cell lists reads as: the reset contents 0x00 (R42, R260; D44). -/
def unlistedByte : Byte := 0x00

/-- The whole state. The first three fields are the model's own: the parameters of the step (R55), the inputs the
environment has still to present, oldest first (R275), and the count of drawn inputs (log 1, 2, 4). The rest is the table
of 10_state.md section 1, in its order. -/
structure State where
  config : Config
  inputs : List Input
  draws : Nat
  id : DeviceId
  protocolState : ProtocolState
  previousPins : Sample
  cmd : Byte
  paramOut : Byte
  paramIn : Byte
  generalStatus : Byte
  senseByte1 : Byte
  senseByte2 : Byte
  attentionPending : Bool
  attentionEnabled : Bool
  writeEnabled : Bool
  selectedHead : Byte
  currentCylinderHigh : Byte
  currentCylinderLow : Byte
  loadCylinderHigh : Byte
  loadCylinderLow : Byte
  testByte : Byte
  attributeNumber : Byte
  attributes : Memory
  attributesInitialized : Bool
  schedActive : Bool
  schedDuration : Time
  schedElapsed : Time
  schedAction : SchedAction
  ackOut : Bool
  busyOut : Bool
  busOut : Byte
  busDrive : Bool
  modelFaults : List Fault
  refusalMark : Bool
  deriving DecidableEq, Repr

/-- Boot reset under a configuration (R260): every element at the value of the "Reset" column of 10_state.md section 1. -/
def State.boot (c : Config) : State :=
  { config := c
    inputs := []
    draws := 0
    id := BitVec.ofNat 3 c.deviceId
    protocolState := .disconnected
    previousPins := Sample.allLow
    cmd := 0x00
    paramOut := 0x00
    paramIn := 0x00
    generalStatus := 0x00
    senseByte1 := 0x00
    senseByte2 := 0x00
    attentionPending := false
    attentionEnabled := c.attentionEnableReset
    writeEnabled := false
    selectedHead := 0x00
    currentCylinderHigh := 0x00
    currentCylinderLow := 0x00
    loadCylinderHigh := 0x00
    loadCylinderLow := 0x00
    testByte := 0x00
    attributeNumber := 0x00
    attributes := []
    attributesInitialized := false
    schedActive := false
    schedDuration := 0
    schedElapsed := 0
    schedAction := .none
    ackOut := false
    busyOut := false
    busOut := 0x00
    busDrive := false
    modelFaults := []
    refusalMark := false }

/-- The machine right after reset, under the reference parameters of R5 (log 4). -/
def State.reset : State := State.boot Config.reference

end Sys2Proof.Machine
end

