-- ==== Sys2Proof/Machine/Flags.lean ====
section
/-! DEFINITION. The bits of `general_status` and of sense byte 1 (10_state.md R28 to R32) and how a status bit is read
and written. -/

namespace Sys2Proof.Machine

/-- `general_status` bit 0, BUSY (R28). -/
def busyMask : Byte := 0x01
/-- `general_status` bit 1, ILLEGAL_COMMAND (R28). -/
def illegalCommandMask : Byte := 0x02
/-- `general_status` bit 2, ILLEGAL_PARAMETER (R28). -/
def illegalParameterMask : Byte := 0x04
/-- `general_status` bit 3, SENSE1_SUMMARY (R28). -/
def sense1SummaryMask : Byte := 0x08
/-- `general_status` bit 4, SENSE2_SUMMARY (R28). -/
def sense2SummaryMask : Byte := 0x10
/-- `general_status` bits 7:5, reserved, always 0 (R28, R29). -/
def reservedStatusMask : Byte := 0xE0

/-- Sense byte 1, bit 0 (R32). -/
def seekFaultMask : Byte := 0x01
/-- Sense byte 1, bit 1 (R32). -/
def powerFaultMask : Byte := 0x02
/-- Sense byte 1, bit 2 (R32). -/
def speedFaultMask : Byte := 0x04

/-- Set every bit of `mask`. -/
def setBits (v mask : Byte) : Byte := v ||| mask

/-- Clear every bit of `mask`. -/
def clearBits (v mask : Byte) : Byte := v &&& ~~~mask

/-- Write one flag: set or clear the bits of `mask`. -/
def writeFlag (v mask : Byte) (b : Bool) : Byte := if b then setBits v mask else clearBits v mask

/-- The BUSY bit of the status. -/
def State.busyBit (s : State) : Bool := s.generalStatus.getLsbD 0
/-- The ILLEGAL_COMMAND bit of the status. -/
def State.illegalCommandBit (s : State) : Bool := s.generalStatus.getLsbD 1
/-- The ILLEGAL_PARAMETER bit of the status. -/
def State.illegalParameterBit (s : State) : Bool := s.generalStatus.getLsbD 2
/-- The SENSE1_SUMMARY bit of the status. -/
def State.sense1SummaryBit (s : State) : Bool := s.generalStatus.getLsbD 3
/-- The SENSE2_SUMMARY bit of the status. -/
def State.sense2SummaryBit (s : State) : Bool := s.generalStatus.getLsbD 4

end Sys2Proof.Machine
end

