-- ==== Sys2Proof/Machine/Operands.lean ====
section
/-! DEFINITION. The operand forms: how the bytes on the bus and in the registers are read (30_encoding.md R89 to R91,
20_memory.md R63, R64) and the range checks of 41_command_executor.md R142, R167. -/

namespace Sys2Proof.Machine

/-- `Selected(m)`: bit `id` of a select mask (R64, R90, R91). -/
def selectedBy (mask : Byte) (id : DeviceId) : Bool := mask.getLsbD id.toNat

/-- The radial status byte `1 << id` (R89 format S, R114). -/
def radialByte (id : DeviceId) : Byte := 1#8 <<< id.toNat

/-- The 16-bit cylinder number `high * 256 + low`: high holds bits 15:8, low bits 7:0 (R63, R90). -/
def cylinderNumber (hi lo : Byte) : Cylinder := hi ++ lo

/-- The mode-toggle flag: bit 7 of the parameter byte, bits 6:0 ignored (R89, R90). -/
def toggleFlag (param : Byte) : Bool := param.getLsbD 7

/-- SELECT_HEAD's check `param_out < HEADS` (R142, R167). -/
def headInRange (g : Geometry) (head : Byte) : Bool := decide (head.toNat < g.heads)

/-- SEEK's check `target < CYLINDERS` (R142, R167). -/
def cylinderInRange (g : Geometry) (target : Cylinder) : Bool := decide (target.toNat < g.cylinders)

end Sys2Proof.Machine
end

