-- ==== Sys2Proof/Machine/Ops.lean ====
section
/-! DEFINITION. The named operations shared by the commands and the state rules: the attribute table (20_memory.md), the
errors and the sense bytes (60_exceptions.md; the engine has no trap entry and no trap return, R220, R235, R236: raising an
error is what stands in their place), the Scheduler (42_scheduler.md), re-initialization (70_reset_and_hazards.md R261) and
the outputs. -/

namespace Sys2Proof.Machine

/-! ### The attribute table -/

/-- The byte at an index: the listed one, else what an unlisted entry reads as. -/
def Memory.read : Memory → Nat → Byte
  | [], _ => unlistedByte
  | (a, v) :: m, i => if a = i then v else Memory.read m i

/-- Put `v` in front, unless it is what an unlisted entry reads as. -/
def Memory.cons (i : Nat) (v : Byte) (m : Memory) : Memory :=
  if v = unlistedByte then m else (i, v) :: m

/-- Write one byte, keeping the canonical form. -/
def Memory.write : Memory → Nat → Byte → Memory
  | [], i, v => Memory.cons i v []
  | (a, w) :: m, i, v =>
    if i < a then Memory.cons i v ((a, w) :: m)
    else if i = a then Memory.cons i v m
    else (a, w) :: Memory.write m i v

/-- The canonical form: indices strictly rising and inside the table (R60), no entry equal to what an unlisted one reads
as. -/
abbrev Memory.wf (m : Memory) : Prop :=
  m.Pairwise (fun x y => x.1 < y.1) ∧ ∀ c ∈ m, c.1 < attributeTableSize ∧ c.2 ≠ unlistedByte

/-- The table whose byte at each index is `f index`. -/
def Memory.ofTable (f : Fin attributeTableSize → Byte) : Memory :=
  (List.finRange attributeTableSize).foldr (fun i m => Memory.cons i.val (f i) m) []

/-- `AttrEnsureInit()` (R62): the lazy initialization from the geometry. -/
def attrEnsureInit (s : State) : State :=
  if s.attributesInitialized then s
  else { s with
    attributes := Memory.ofTable (Config.attrInit s.config.geometry)
    attributesInitialized := true }

/-- `MemRead(i, 1)` (R61): the byte, and the state after the initialization it calls first. -/
def memRead (i : Fin attributeTableSize) (s : State) : Byte × State :=
  ((attrEnsureInit s).attributes.read i.val, attrEnsureInit s)

/-- `MemWrite(i, 1, v)` (R61), after the initialization it calls first. -/
def memWrite (i : Fin attributeTableSize) (v : Byte) (s : State) : State :=
  { attrEnsureInit s with attributes := (attrEnsureInit s).attributes.write i.val v }

/-! ### Errors (60_exceptions.md section 2) -/

/-- `raise IllegalParameter()` (R222): the status bit and the attention condition. -/
def raiseIllegalParameter (s : State) : State :=
  { s with generalStatus := setBits s.generalStatus illegalParameterMask, attentionPending := true }

/-- `raise IllegalCommand()` (R223): the status bit, no attention. -/
def raiseIllegalCommand (s : State) : State :=
  { s with generalStatus := setBits s.generalStatus illegalCommandMask }

/-- Record a sticky model fault (R12, R234); the set holds a reason once. -/
def recordFault (r : Fault) (s : State) : State :=
  if r ∈ s.modelFaults then s else { s with modelFaults := s.modelFaults ++ [r] }

/-! ### Sense bytes (60_exceptions.md section 3) -/

/-- Sense byte n. -/
def senseByte (n : SenseByte) (s : State) : Byte :=
  match n with
  | .one => s.senseByte1
  | .two => s.senseByte2

/-- Write sense byte n and nothing else. -/
def writeSenseByte (n : SenseByte) (v : Byte) (s : State) : State :=
  match n with
  | .one => { s with senseByte1 := v }
  | .two => { s with senseByte2 := v }

/-- `ATTN_MASK_n` (R224). -/
def attentionMask (n : SenseByte) (c : Config) : Byte :=
  match n with
  | .one => sense1AttentionMask
  | .two => c.sense2AttentionMask

/-- The summary bit of sense byte n, `general_status[2 + n]` (R226). -/
def summaryMask (n : SenseByte) : Byte :=
  match n with
  | .one => sense1SummaryMask
  | .two => sense2SummaryMask

/-- `UpdateSummary(n)` (R226): the summary bit is "sense byte n is not 0". -/
def updateSummary (n : SenseByte) (s : State) : State :=
  { s with generalStatus := writeFlag s.generalStatus (summaryMask n) (senseByte n s != 0) }

/-- Raise the attention condition where `b` holds (R227). -/
def raiseAttentionIf (b : Bool) (s : State) : State :=
  { s with attentionPending := s.attentionPending || b }

/-- `SetSense(n, mask)` (R224), the fault collaborator's event (R232). -/
def setSense (n : SenseByte) (mask : Byte) (s : State) : State :=
  let rising := mask &&& ~~~senseByte n s
  updateSummary n
    (raiseAttentionIf (rising &&& attentionMask n s.config != 0)
      (writeSenseByte n (setBits (senseByte n s) mask) s))

/-- `ClearSense(n, mask)` (R225). -/
def clearSense (n : SenseByte) (mask : Byte) (s : State) : State :=
  updateSummary n (writeSenseByte n (clearBits (senseByte n s) mask) s)

/-- `FAULT_PRESENT(n, b)` for every bit b of sense byte n (R231; log 6). -/
def faultPresent (n : SenseByte) (c : Config) : Byte :=
  match n with
  | .one => c.faultPresent1
  | .two => c.faultPresent2

/-! ### Responses -/

/-- Write the response byte. -/
def respond (v : Byte) (s : State) : State := { s with paramIn := v }

/-- The default response (R141): `param_in <- general_status`, the value after the command's effects. -/
def respondStatus (s : State) : State := respond s.generalStatus s

/-! ### Scheduler (42_scheduler.md) -/

/-- `SchedStart(d, a)` (R201). -/
def schedStart (d : Time) (a : SchedAction) (s : State) : State :=
  { s with
    schedActive := true
    schedDuration := d
    schedElapsed := 0
    schedAction := a
    generalStatus := setBits s.generalStatus busyMask }

/-- `sat32(a + b)` = `min(a + b, 2^32 - 1)` (R9). -/
def sat32Add (a b : Time) : Time := BitVec.ofNat 32 (min (a.toNat + b.toNat) (2 ^ 32 - 1))

/-- `SchedAdvance(dt)` (R202). -/
def schedAdvance (dt : Time) (s : State) : State :=
  if s.schedActive then { s with schedElapsed := sat32Add s.schedElapsed dt } else s

/-- `RunAction(a)` (R204 to R207). -/
def runAction (a : SchedAction) (s : State) : State :=
  match a with
  | .none => s
  | .commitSeek hi lo => { s with currentCylinderHigh := hi, currentCylinderLow := lo }
  | .commitRezero => { s with currentCylinderHigh := 0x00, currentCylinderLow := 0x00 }

/-- What a poll of the Scheduler answers (R203). -/
inductive PollResult where
  | running
  | complete
  deriving DecidableEq, Repr

/-- The completion of a registration (R203): its action runs once and the registration and BUSY go. -/
def schedComplete (s : State) : State :=
  { runAction s.schedAction s with
    schedActive := false
    schedAction := .none
    generalStatus := clearBits s.generalStatus busyMask }

/-- `SchedPoll()` (R203): the answer and the state after it. The comparison is unsigned. -/
def schedPoll (s : State) : PollResult × State :=
  if s.schedActive then
    if s.schedElapsed.toNat < s.schedDuration.toNat then (.running, s) else (.complete, schedComplete s)
  else (.complete, s)

/-! ### Re-initialization and outputs -/

/-- `Reinit()` (R261): every element but `id`, `state`, `bus_drive` and the model bookkeeping at its reset value. -/
def reinit (s : State) : State :=
  { State.boot s.config with
    inputs := s.inputs
    draws := s.draws
    id := s.id
    protocolState := s.protocolState
    busDrive := s.busDrive
    modelFaults := s.modelFaults
    refusalMark := s.refusalMark }

/-- The attention line (R49, R228). -/
def attentionLine (s : State) : Bool := s.attentionPending && s.attentionEnabled

/-- The output tuple a host observes after a cycle (R275). -/
structure Outputs where
  ackOut : Bool
  busyOut : Bool
  attentionLine : Bool
  busDrive : Bool
  busOut : Byte
  deriving DecidableEq, Repr

/-- The outputs of a state (R71, R275). -/
def outputs (s : State) : Outputs :=
  { ackOut := s.ackOut, busyOut := s.busyOut, attentionLine := attentionLine s, busDrive := s.busDrive, busOut := s.busOut }

/-- What the control bus carries from the device: `bus_out` while the device drives, nothing otherwise (R47, R48, R60). -/
def drivenByte (s : State) : Option Byte := if s.busDrive then some s.busOut else none

end Sys2Proof.Machine
end

