-- ==== Sys2Proof/Machine/Clears.lean ====
section
/-! DEFINITION. Fault and attention management (41_command_executor.md section 3, R150, R151). -/

namespace Sys2Proof.Machine

/-- CLEAR_FAULT (R150): clear every sense bit whose fault is no longer present, then the attention condition. -/
def execClearFault (s : State) : Host.Outcome State Fault Refusal :=
  let m₁ := ~~~faultPresent .one s.config
  let m₂ := ~~~faultPresent .two s.config
  .next (respondStatus { clearSense .two m₂ (clearSense .one m₁ s) with attentionPending := false })

/-- CLEAR_ATTENTION (R151): clear the two illegal bits, then the attention condition. -/
def execClearAttention (s : State) : Host.Outcome State Fault Refusal :=
  .next (respondStatus { s with
    generalStatus := clearBits (clearBits s.generalStatus illegalCommandMask) illegalParameterMask
    attentionPending := false })

end Sys2Proof.Machine
end

