-- ==== Sys2Proof/Machine/Fallback.lean ====
section
/-! DEFINITION. The universal fallback (41_command_executor.md section 8, R166). -/

namespace Sys2Proof.Machine

/-- UNRECOGNIZED (R166): any code outside the map raises IllegalCommand; the code has no operand. -/
def execUnrecognized (s : State) : Host.Outcome State Fault Refusal :=
  .next (respondStatus (raiseIllegalCommand s))

end Sys2Proof.Machine
end

