-- ==== Sys2Proof/Machine/Loads.lean ====
section
/-! DEFINITION. The parameter loads (41_command_executor.md section 5, R154 to R159). Each ends with the default response
of R141. -/

namespace Sys2Proof.Machine

/-- LOAD_CYL_ADDR_HIGH (R154). -/
def execLoadCylAddrHigh (s : State) : Host.Outcome State Fault Refusal :=
  .next (respondStatus { s with loadCylinderHigh := s.paramOut })

/-- LOAD_CYL_ADDR_LOW (R155). -/
def execLoadCylAddrLow (s : State) : Host.Outcome State Fault Refusal :=
  .next (respondStatus { s with loadCylinderLow := s.paramOut })

/-- LOAD_ATTRIBUTE_NUMBER (R156): any value is stored, and the table is not initialized. -/
def execLoadAttributeNumber (s : State) : Host.Outcome State Fault Refusal :=
  .next (respondStatus { s with attributeNumber := s.paramOut })

/-- LOAD_ATTRIBUTE (R157): initialize, then write, or raise IllegalParameter for an index of 72 or more. -/
def execLoadAttribute (s : State) : Host.Outcome State Fault Refusal :=
  let s₁ := attrEnsureInit s
  if h : s.attributeNumber.toNat < attributeTableSize then
    .next (respondStatus (memWrite ⟨s.attributeNumber.toNat, h⟩ s.paramOut s₁))
  else
    .next (respondStatus (raiseIllegalParameter s₁))

/-- LOAD_TEST_BYTE (R158). -/
def execLoadTestByte (s : State) : Host.Outcome State Fault Refusal :=
  .next (respondStatus { s with testByte := s.paramOut })

/-- SELECT_HEAD (R159). -/
def execSelectHead (s : State) : Host.Outcome State Fault Refusal :=
  if headInRange s.config.geometry s.paramOut then
    .next (respondStatus { s with selectedHead := s.paramOut })
  else
    .next (respondStatus (raiseIllegalParameter s))

end Sys2Proof.Machine
end

