-- ==== Sys2Proof/Machine/Placeholders.lean ====
section
/-! DEFINITION. The time-dependent placeholders (41_command_executor.md section 7, R162 to R165): each registers with the
Scheduler under its own duration and the action NONE. Any parameter byte is ignored. -/

namespace Sys2Proof.Machine

/-- SELECTIVE_RESET (R163). -/
def execSelectiveReset (s : State) : Host.Outcome State Fault Refusal :=
  .next (respondStatus (schedStart s.config.durations.selectiveReset .none s))

/-- REFORMAT_TRACK (R164). -/
def execReformatTrack (s : State) : Host.Outcome State Fault Refusal :=
  .next (respondStatus (schedStart s.config.durations.reformatTrack .none s))

/-- SPIN_CONTROL (R165). -/
def execSpinControl (s : State) : Host.Outcome State Fault Refusal :=
  .next (respondStatus (schedStart s.config.durations.spinControl .none s))

/-- SET_ATTENTION (R162): attention is raised at completion (R119), not here. -/
def execSetAttention (s : State) : Host.Outcome State Fault Refusal :=
  .next (respondStatus (schedStart s.config.durations.setAttention .none s))

end Sys2Proof.Machine
end

