-- ==== Sys2Proof/Machine/Positioning.lean ====
section
/-! DEFINITION. Positioning (41_command_executor.md section 4, R152, R153). -/

namespace Sys2Proof.Machine

/-- SEEK (R152): the target is captured now and committed at completion (R205); a target at or beyond CYLINDERS registers
nothing and raises IllegalParameter. -/
def execSeek (s : State) : Host.Outcome State Fault Refusal :=
  if cylinderInRange s.config.geometry (cylinderNumber s.loadCylinderHigh s.loadCylinderLow) then
    .next (respondStatus
      (schedStart s.config.durations.seek (.commitSeek s.loadCylinderHigh s.loadCylinderLow) s))
  else
    .next (respondStatus (raiseIllegalParameter s))

/-- REZERO (R153): the position becomes zero at completion (R206). -/
def execRezero (s : State) : Host.Outcome State Fault Refusal :=
  .next (respondStatus (schedStart s.config.durations.rezero .commitRezero s))

end Sys2Proof.Machine
end

