-- ==== Sys2Proof/Machine/Reports.lean ====
section
/-! DEFINITION. The status reports (41_command_executor.md section 2, R143 to R149): each writes the response byte and,
for an attribute report, initializes the table. -/

namespace Sys2Proof.Machine

/-- REPORT_GENERAL_STATUS (R143). -/
def execReportGeneralStatus (s : State) : Host.Outcome State Fault Refusal :=
  .next (respond s.generalStatus s)

/-- REPORT_SENSE_BYTE_1 (R144): reading does not clear sticky bits. -/
def execReportSenseByte1 (s : State) : Host.Outcome State Fault Refusal :=
  .next (respond s.senseByte1 s)

/-- REPORT_SENSE_BYTE_2 (R145). -/
def execReportSenseByte2 (s : State) : Host.Outcome State Fault Refusal :=
  .next (respond s.senseByte2 s)

/-- REPORT_CYL_ADDR_HIGH (R146): the committed position, not the staged load register. -/
def execReportCylAddrHigh (s : State) : Host.Outcome State Fault Refusal :=
  .next (respond s.currentCylinderHigh s)

/-- REPORT_CYL_ADDR_LOW (R147). -/
def execReportCylAddrLow (s : State) : Host.Outcome State Fault Refusal :=
  .next (respond s.currentCylinderLow s)

/-- REPORT_TEST_BYTE (R148). -/
def execReportTestByte (s : State) : Host.Outcome State Fault Refusal :=
  .next (respond s.testByte s)

/-- REPORT_ATTRIBUTE (R149): initialize, then read, or raise IllegalParameter for an index of 72 or more. -/
def execReportAttribute (s : State) : Host.Outcome State Fault Refusal :=
  let s₁ := attrEnsureInit s
  if h : s.attributeNumber.toNat < attributeTableSize then
    let r := memRead ⟨s.attributeNumber.toNat, h⟩ s₁
    .next (respond r.1 r.2)
  else
    .next (respondStatus (raiseIllegalParameter s₁))

end Sys2Proof.Machine
end

