-- ==== Sys2Proof/Machine/Toggles.lean ====
section
/-! DEFINITION. The mode toggles (41_command_executor.md section 6, R160, R161). -/

namespace Sys2Proof.Machine

/-- ATTENTION_CONTROL (R160): a pending condition is kept. -/
def execAttentionControl (s : State) : Host.Outcome State Fault Refusal :=
  .next (respondStatus { s with attentionEnabled := toggleFlag s.paramOut })

/-- WRITE_CONTROL (R161). -/
def execWriteControl (s : State) : Host.Outcome State Fault Refusal :=
  .next (respondStatus { s with writeEnabled := toggleFlag s.paramOut })

end Sys2Proof.Machine
end

