-- ==== Sys2Proof/Machine/Dispatch.lean ====
section
/-! DEFINITION. `Execute(c)` on a decoded command (41_command_executor.md R140): one arm per constructor of `Instr`. -/

namespace Sys2Proof.Machine

def exec (i : Instr) (s : State) : Host.Outcome State Fault Refusal :=
  match i with
  | .loadCylAddrHigh => Sys2Proof.Machine.execLoadCylAddrHigh s
  | .loadCylAddrLow => Sys2Proof.Machine.execLoadCylAddrLow s
  | .loadAttributeNumber => Sys2Proof.Machine.execLoadAttributeNumber s
  | .loadAttribute => Sys2Proof.Machine.execLoadAttribute s
  | .loadTestByte => Sys2Proof.Machine.execLoadTestByte s
  | .selectHead => Sys2Proof.Machine.execSelectHead s
  | .attentionControl => Sys2Proof.Machine.execAttentionControl s
  | .writeControl => Sys2Proof.Machine.execWriteControl s
  | .selectiveReset => Sys2Proof.Machine.execSelectiveReset s
  | .reformatTrack => Sys2Proof.Machine.execReformatTrack s
  | .spinControl => Sys2Proof.Machine.execSpinControl s
  | .reportGeneralStatus => Sys2Proof.Machine.execReportGeneralStatus s
  | .reportSenseByte1 => Sys2Proof.Machine.execReportSenseByte1 s
  | .reportSenseByte2 => Sys2Proof.Machine.execReportSenseByte2 s
  | .reportCylAddrHigh => Sys2Proof.Machine.execReportCylAddrHigh s
  | .reportCylAddrLow => Sys2Proof.Machine.execReportCylAddrLow s
  | .reportTestByte => Sys2Proof.Machine.execReportTestByte s
  | .reportAttribute => Sys2Proof.Machine.execReportAttribute s
  | .clearFault => Sys2Proof.Machine.execClearFault s
  | .clearAttention => Sys2Proof.Machine.execClearAttention s
  | .seek => Sys2Proof.Machine.execSeek s
  | .rezero => Sys2Proof.Machine.execRezero s
  | .setAttention => Sys2Proof.Machine.execSetAttention s
  | .unrecognized _ => Sys2Proof.Machine.execUnrecognized s

end Sys2Proof.Machine
end

