-- ==== Sys2Proof/Machine/BusStateMachine.lean ====
section
/-! DEFINITION. The poll cycle and the bus state machine (40_bus_state_machine.md): the phases of R100, one rule per
protocol state, and how the next input of the environment is taken (00_scope.md R4). -/

namespace Sys2Proof.Machine

/-! ### The common phases -/

/-- R101: the direction follows the sample, in every state. -/
def setDirection (smp : Sample) (s : State) : State := { s with busDrive := smp.dir == .d2h }

/-- R102: the acknowledge falls when the strobe and both requests are low. -/
def releaseAck (smp : Sample) (s : State) : State :=
  if !smp.sel && !smp.cmdReq && !smp.paramReq then { s with ackOut := false } else s

/-- `HANDSHAKE_STATES` of R100. -/
def ProtocolState.isHandshake : ProtocolState → Bool
  | .disconnected => false
  | .connected => false
  | .selected => false
  | .readCommand => true
  | .awaitingParamOut => true
  | .executeCommand => true
  | .awaitingParamIn => true
  | .awaitingTimeDependentCommand => true
  | .reading => false
  | .writing => false

/-- R104: a gate asserted in a handshake state records PROTOCOL_VIOLATION and changes nothing else. -/
def protocolCheck (smp : Sample) (s : State) : State :=
  if s.protocolState.isHandshake && (smp.readGate || smp.writeGate) then recordFault .protocolViolation s else s

/-- The phases before the state rule, in the order of R100. -/
def commonPhases (smp : Sample) (dt : Time) (s : State) : State :=
  protocolCheck smp (schedAdvance dt (releaseAck smp (setDirection smp s)))

/-! ### The state rules -/

/-- DISCONNECTED (R106). -/
def ruleDisconnected (smp : Sample) (s : State) : Host.Outcome State Fault Refusal :=
  if smp.enable then .next { s with protocolState := .connected } else .next s

/-- CONNECTED: loss of enable (R107) before selection (R108). -/
def ruleConnected (smp : Sample) (s : State) : Host.Outcome State Fault Refusal :=
  if !smp.enable then .next { reinit s with protocolState := .disconnected }
  else if smp.sel && smp.dir == .h2d && selectedBy smp.bus s.id then
    .next { s with ackOut := true, protocolState := .selected }
  else .next s

/-- SELECTED: the first branch of R109 whose condition holds (R110 to R115). -/
def ruleSelected (smp : Sample) (s : State) : Host.Outcome State Fault Refusal :=
  if smp.dir == .h2d && smp.cmdReq then .next { s with protocolState := .readCommand }
  else if smp.readGate then .next { s with protocolState := .reading }
  else if smp.writeGate then .next { s with protocolState := .writing }
  else if smp.sel && smp.dir == .h2d then
    if selectedBy smp.bus s.id then .next { s with ackOut := true }
    else .next { s with protocolState := .connected }
  else if smp.sel && smp.dir == .d2h then .next { s with busOut := radialByte s.id }
  else .next s

/-- READ_COMMAND (R116): unconditional. -/
def ruleReadCommand (smp : Sample) (s : State) : Host.Outcome State Fault Refusal :=
  .next { s with
    cmd := smp.bus
    ackOut := true
    protocolState := if commandIsParamOut smp.bus then .awaitingParamOut else .executeCommand }

/-- AWAITING_PARAM_OUT (R117). -/
def ruleAwaitingParamOut (smp : Sample) (s : State) : Host.Outcome State Fault Refusal :=
  if smp.dir == .h2d && smp.paramReq then
    .next { s with paramOut := smp.bus, ackOut := true, protocolState := .executeCommand }
  else .next s

/-- `Assert(busy)` for a time-dependent command (R118). -/
def assertBusyIf (td : Bool) (s : State) : State := { s with busyOut := s.busyOut || td }

/-- Where EXECUTE_COMMAND goes (R118), from the class of the latched code. -/
def afterExecute (codes : CodeMap) (cmd : Byte) : ProtocolState :=
  if commandIsParamOut cmd then
    if commandIsTimeDependent codes cmd then .awaitingTimeDependentCommand else .selected
  else .awaitingParamIn

/-- EXECUTE_COMMAND (R118): assert busy, run the latched command, go on by its class. -/
def ruleExecuteCommand (s : State) : Host.Outcome State Fault Refusal :=
  match exec (decode s.config.codes s.cmd) (assertBusyIf (commandIsTimeDependent s.config.codes s.cmd) s) with
  | .next s' => .next { s' with protocolState := afterExecute s.config.codes s.cmd }
  | .fault r => .fault r
  | .refused r => .refused r

/-- AWAITING_PARAM_IN (R120). -/
def ruleAwaitingParamIn (smp : Sample) (s : State) : Host.Outcome State Fault Refusal :=
  if smp.dir == .d2h && smp.paramReq then
    .next { s with
      busOut := s.paramIn
      ackOut := true
      protocolState :=
        if commandIsTimeDependent s.config.codes s.cmd then .awaitingTimeDependentCommand else .selected }
  else .next s

/-- AWAITING_TIME_DEPENDENT_COMMAND (R119): the lines are not read. -/
def ruleAwaitingTimeDependentCommand (s : State) : Host.Outcome State Fault Refusal :=
  match schedPoll s with
  | (.running, s') => .next s'
  | (.complete, s') =>
    .next { s' with busyOut := false, attentionPending := true, protocolState := .selected }

/-- The rule of the current protocol state (R100): exactly one runs. READING and WRITING refuse (R121). -/
def stateRule (smp : Sample) (s : State) : Host.Outcome State Fault Refusal :=
  match s.protocolState with
  | .disconnected => ruleDisconnected smp s
  | .connected => ruleConnected smp s
  | .selected => ruleSelected smp s
  | .readCommand => ruleReadCommand smp s
  | .awaitingParamOut => ruleAwaitingParamOut smp s
  | .executeCommand => ruleExecuteCommand s
  | .awaitingParamIn => ruleAwaitingParamIn smp s
  | .awaitingTimeDependentCommand => ruleAwaitingTimeDependentCommand s
  | .reading => .refused .dataPhaseUnmodelled
  | .writing => .refused .dataPhaseUnmodelled

/-- `Cycle(s, dt)` (R100): the common phases, the state rule, then the snapshot of every cycle that does not refuse
(R105). -/
def cycle (smp : Sample) (dt : Time) (s : State) : Host.Outcome State Fault Refusal :=
  match stateRule smp (commonPhases smp dt s) with
  | .next s' => .next { s' with previousPins := smp }
  | .fault r => .fault r
  | .refused r => .refused r

/-! ### The environment -/

/-- The environment's next input (R4, R274) and the state without it: the oldest listed one, else an unconstrained draw
(log 1, 2). -/
def takeInput (s : State) : Input × State :=
  match s.inputs with
  | i :: rest => (i, { s with inputs := rest })
  | [] => (Config.drawInput s.draws, { s with draws := s.draws + 1 })

/-- One input applied: a poll cycle (R100), or a fault-collaborator event between two cycles (R232, R233). -/
def applyInput (i : Input) (s : State) : Host.Outcome State Fault Refusal :=
  match i with
  | .cycle smp dt => cycle smp dt s
  | .sense n mask => .next (setSense n mask s)

/-- One step of the machine: BAD_CONFIG is refused before any cycle (R6, R84, R234), else the next input is applied. -/
def pollStep (s : State) : Host.Outcome State Fault Refusal :=
  if s.config.admissible then applyInput (takeInput s).1 (takeInput s).2 else .refused .badConfig

/-- Several engines on one bus (R241, D35): each sees the same sample and keeps its own state; none shares any. Whether
they receive the same time increment the spec leaves open (R53 makes `dt` a draw per cycle): DESIGN CHOICE, log 17, each
engine takes a `dt` of its own, one common `dt` being a case of it. -/
def cycleAll (smp : Sample) (devices : List (Time × State)) : List (Host.Outcome State Fault Refusal) :=
  devices.map (fun d => cycle smp d.1 d.2)

/-- The state from which the next step runs the command whose bits are `w`: it is latched in `cmd`, EXECUTE_COMMAND is the
state, and the next input is a default cycle sample of R94 with the reference `dt` 1 (log 19). -/
def latchForExecution (s : State) (nbits w : Nat) : State :=
  { s with
    cmd := BitVec.ofNat 8 (w % 2 ^ nbits)
    protocolState := .executeCommand
    inputs := .cycle Sample.default 1 :: s.inputs }

end Sys2Proof.Machine
end

