-- ==== Sys2Proof/Machine/Step.lean ====
section
/-! DEFINITION. One step of the machine (00_scope.md R4), over the operations of BusStateMachine.lean. -/

namespace Sys2Proof.Machine

/-- One step: the environment's next input, a poll cycle or a fault-collaborator event, applied to the state. -/
def step (s : State) : Host.Outcome State Fault Refusal := pollStep s

/-- The state whose very next step runs the command whose bits are `w` (log 19). -/
def State.withFetchWord (s : State) (nbits w : Nat) : State := latchForExecution s nbits w

end Sys2Proof.Machine
end

