-- ==== Sys2Proof/Machine/Transactions.lean ====
section
/-! DEFINITION. The host's transaction notation (30_encoding.md R94): each line expands to cycle samples. -/

namespace Sys2Proof.Machine

/-- A line of the notation of R94. -/
inductive Transaction where
  | cyc (smp : Sample)
  | connect
  | select (mask : Byte)
  | outCmd (code param : Byte)
  | inCmd (code : Byte)
  | idle (n : Nat)
  | disconnect
  deriving DecidableEq, Repr

/-- The sample `cr=1 bus=c`. -/
def commandSample (c : Byte) : Sample := { Sample.default with cmdReq := true, bus := c }

/-- The sample `pr=1 bus=p`. -/
def paramOutSample (p : Byte) : Sample := { Sample.default with paramReq := true, bus := p }

/-- The sample `pr=1 dir=D`. -/
def paramInSample : Sample := { Sample.default with paramReq := true, dir := .d2h }

/-- The expansion table of R94. -/
def Transaction.samples : Transaction → List Sample
  | .cyc smp => [smp]
  | .connect => [Sample.default]
  | .select m => [{ Sample.default with sel := true, bus := m }, Sample.default]
  | .outCmd c p => [commandSample c, commandSample c, Sample.default, paramOutSample p, Sample.default]
  | .inCmd c => [commandSample c, commandSample c, Sample.default, paramInSample, { Sample.default with dir := .d2h }]
  | .idle n => List.replicate n Sample.default
  | .disconnect => [{ Sample.default with enable := false }]

/-- The inputs a transaction presents, each with the time increment `dt`. -/
def Transaction.inputs (dt : Time) (t : Transaction) : List Input := t.samples.map (fun smp => .cycle smp dt)

end Sys2Proof.Machine
end

