-- ==== Sys2Proof/Safety.lean ====
section
/-! DEFINITION. Runs (70_reset_and_hazards.md R275), what makes one bad (R275, 10_state.md R50), and the invariants the
spec states (10_state.md R21, R29, R30, R31, R56, R57). -/

namespace Sys2Proof.Machine

/-- One step of a run, keeping the model's bookkeeping: a refused step leaves the state and sets the refusal mark (R12
outcome 3, R50, R121; log 8). -/
def advance (s : State) : State :=
  match step s with
  | .next s' => s'
  | .fault r => recordFault r s
  | .refused _ => { s with refusalMark := true }

/-- The state after `n` steps of a run. -/
def run : Nat → State → State
  | 0, s => s
  | n + 1, s => run n (advance s)

/-- The input is a poll cycle's, not a fault-collaborator event. -/
def isCycle (i : Input) : Bool :=
  match i with
  | .cycle _ _ => true
  | .sense _ _ => false

/-- What one step of a run lets the host observe (R275): the output tuple after a cycle that has a next state; nothing
after a fault-collaborator event (log 3) or a refused step (log 8). -/
def observation (s : State) : List Outputs :=
  match step s with
  | .next t => if isCycle (takeInput s).1 then [outputs t] else []
  | .fault _ => []
  | .refused _ => []

/-- The output tuples of a run of `n` steps (R275): one after each cycle. -/
def observations : Nat → State → List Outputs
  | 0, _ => []
  | n + 1, s => observation s ++ observations n (advance s)

/-- The start of a run (R275): a launch state, and the finite sequence of the inputs that drive it, with any
fault-collaborator events between them. -/
def launch (s : State) (xs : List Input) : State := { s with inputs := xs }

/-- What is observed of a run (R275): the sequence of output tuples, and the final state. -/
def observe (s : State) (xs : List Input) : List Outputs × State :=
  (observations xs.length (launch s xs), run xs.length (launch s xs))

/-- No fault recorded and no refusal: the premise of a claim about a run (R50). -/
def State.clean (s : State) : Bool := s.modelFaults.isEmpty && !s.refusalMark

/-- A run is bad if it records a fault or a refusal (R275); both are sticky, so the last state shows it. -/
def badRun (n : Nat) (s : State) : Bool := !(run n s).clean

/-- R30: BUSY is set exactly while a registration is active. -/
abbrev State.BusyAgrees (s : State) : Prop := s.busyBit = s.schedActive

/-- R31: each summary bit is "its sense byte is not 0". -/
abbrev State.SummariesAgree (s : State) : Prop :=
  s.sense1SummaryBit = (s.senseByte1 != 0) ∧ s.sense2SummaryBit = (s.senseByte2 != 0)

/-- R29: the reserved status bits are 0. -/
abbrev State.ReservedClear (s : State) : Prop := s.generalStatus &&& reservedStatusMask = 0

/-- R57: the busy line is up exactly in AWAITING_TIME_DEPENDENT_COMMAND, or in AWAITING_PARAM_IN of a time-dependent
command. -/
abbrev State.BusyLineAgrees (s : State) : Prop :=
  s.busyOut = true ↔
    s.protocolState = .awaitingTimeDependentCommand ∨
      (s.protocolState = .awaitingParamIn ∧ commandIsTimeDependent s.config.codes s.cmd = true)

/-- R56, with the part of it that makes it inductive: an active registration belongs to a state in which the busy line is
up. -/
abbrev State.ActiveOnlyWhileBusy (s : State) : Prop := s.schedActive = true → s.busyOut = true

/-- R21: the id is the configured one. -/
abbrev State.IdConfigured (s : State) : Prop := s.id.toNat = s.config.deviceId

/-- The invariant of runs from reset: R21, R29, R30, R31, R56, R57, the canonical form of the attribute table and a fault
set without repeats. -/
abbrev State.Inv (s : State) : Prop :=
  s.IdConfigured ∧ s.ReservedClear ∧ s.BusyAgrees ∧ s.SummariesAgree ∧ s.BusyLineAgrees ∧ s.ActiveOnlyWhileBusy ∧
    s.attributes.wf ∧ s.modelFaults.Nodup

/-! ### Terms of the statements -/

/-- How a command is encoded under the reference map of R85: its code, its class and whether it is time-dependent. -/
def EncodedAs (i : Instr) (code : Byte) (paramOut timeDependent : Bool) : Prop :=
  decode CodeMap.reference code = i ∧ encode CodeMap.reference i = code ∧ commandIsParamOut code = paramOut ∧
    commandIsTimeDependent CodeMap.reference code = timeDependent

/-- The operands on which a command raises IllegalParameter (R142): the four checks of the executor. -/
def raisesIllegalParameter (i : Instr) (s : State) : Bool :=
  match i with
  | .selectHead => !headInRange s.config.geometry s.paramOut
  | .seek => !cylinderInRange s.config.geometry (cylinderNumber s.loadCylinderHigh s.loadCylinderLow)
  | .reportAttribute => decide (attributeTableSize ≤ s.attributeNumber.toNat)
  | .loadAttribute => decide (attributeTableSize ≤ s.attributeNumber.toNat)
  | .loadCylAddrHigh | .loadCylAddrLow | .loadAttributeNumber | .loadTestByte | .attentionControl | .writeControl
  | .selectiveReset | .reformatTrack | .spinControl | .reportGeneralStatus | .reportSenseByte1 | .reportSenseByte2
  | .reportCylAddrHigh | .reportCylAddrLow | .reportTestByte | .clearFault | .clearAttention | .rezero | .setAttention
  | .unrecognized _ => false

/-- The six commands the Scheduler completes (R83). -/
def isTimeDependentCommand (i : Instr) : Bool :=
  match i with
  | .seek | .rezero | .setAttention | .selectiveReset | .reformatTrack | .spinControl => true
  | .loadCylAddrHigh | .loadCylAddrLow | .loadAttributeNumber | .loadAttribute | .loadTestByte | .selectHead
  | .attentionControl | .writeControl | .reportGeneralStatus | .reportSenseByte1 | .reportSenseByte2
  | .reportCylAddrHigh | .reportCylAddrLow | .reportTestByte | .reportAttribute | .clearFault | .clearAttention
  | .unrecognized _ => false

/-- What the table reads at an index once the lazy initialization has run (R62): what it held, if it had run before, else
ATTR_INIT of the geometry. -/
def initializedEntry (s : State) (i : Fin attributeTableSize) : Byte :=
  if s.attributesInitialized then s.attributes.read i.val else Config.attrInit s.config.geometry i

/-- The elapsed time a cycle's state rule sees (R103, R202): `min(elapsed + dt, 2^32 - 1)` for an active registration. -/
def elapsedSeen (dt : Time) (s : State) : Nat :=
  if s.schedActive then min (s.schedElapsed.toNat + dt.toNat) (2 ^ 32 - 1) else s.schedElapsed.toNat

/-- The poll of a cycle in AWAITING_TIME_DEPENDENT_COMMAND answers COMPLETE (R203). -/
def pollCompletes (dt : Time) (s : State) : Bool :=
  !s.schedActive || decide (s.schedDuration.toNat ≤ elapsedSeen dt s)

/-- The transition table of R123: the state after a cycle, `none` where the cycle refuses. -/
def edge (smp : Sample) (dt : Time) (s : State) : Option ProtocolState :=
  match s.protocolState with
  | .disconnected => some (if smp.enable then .connected else .disconnected)
  | .connected =>
    some (if !smp.enable then .disconnected
      else if smp.sel && smp.dir == .h2d && smp.bus.getLsbD s.id.toNat then .selected else .connected)
  | .selected =>
    some (if smp.dir == .h2d && smp.cmdReq then .readCommand
      else if smp.readGate then .reading
      else if smp.writeGate then .writing
      else if smp.sel && smp.dir == .h2d && !smp.bus.getLsbD s.id.toNat then .connected else .selected)
  | .readCommand => some (if smp.bus.getLsbD 7 then .executeCommand else .awaitingParamOut)
  | .awaitingParamOut => some (if smp.dir == .h2d && smp.paramReq then .executeCommand else .awaitingParamOut)
  | .executeCommand =>
    some (if s.cmd.getLsbD 7 then .awaitingParamIn
      else if commandIsTimeDependent s.config.codes s.cmd then .awaitingTimeDependentCommand else .selected)
  | .awaitingParamIn =>
    some (if smp.dir == .d2h && smp.paramReq then
        if commandIsTimeDependent s.config.codes s.cmd then .awaitingTimeDependentCommand else .selected
      else .awaitingParamIn)
  | .awaitingTimeDependentCommand => some (if pollCompletes dt s then .selected else .awaitingTimeDependentCommand)
  | .reading => none
  | .writing => none

/-- One unit of time and a poll (R210). -/
def tick (s : State) : PollResult × State := schedPoll (schedAdvance 1 s)

/-- The state after `k` such polls. -/
def ticks : Nat → State → State
  | 0, s => s
  | k + 1, s => ticks k (tick s).2

end Sys2Proof.Machine
end

