-- ==== Sys2Proof/Certificates/Slice0/Obligations.lean ====
section
/-! DEFINITION. The statements for the provers. Each docstring names the rule of spec/ it formalises, or says what it
rests on. -/

open Sys2Proof Sys2Proof.Machine

/-! ### Encoding (30_encoding.md) -/

/-- 30_encoding.md section 3 (the spec's decision D2): under every admissible code map, decoding the code of a well-formed
instruction gives the instruction back. -/
def Obligations.DecodeOfEncodeIsTheInstruction : Prop :=
  ∀ (m : CodeMap) (i : Instr), m.admissible = true → i.wf m = true → decode m (encode m i) = i

/-- 30_encoding.md section 3 (the spec's decision D2): decoding is total and exact. Under every code map each byte decodes
to a well-formed instruction whose code is that byte. -/
def Obligations.EncodeOfDecodeIsTheByte : Prop :=
  ∀ (m : CodeMap) (c : Byte), encode m (decode m c) = c ∧ (decode m c).wf m = true

/-- R83: under an admissible map a code is classed time-dependent exactly when it decodes to one of the six commands, and
an unrecognized code never is. -/
def Obligations.TimeDependentCodesAreTheSix : Prop :=
  ∀ (m : CodeMap) (c : Byte), m.admissible = true →
    (commandIsTimeDependent m c = true ↔
      decode m c = .seek ∨ decode m c = .rezero ∨ decode m c = .setAttention ∨ decode m c = .selectiveReset ∨
        decode m c = .reformatTrack ∨ decode m c = .spinControl)

/-- Words written out from the reference map of R85 (the spec's own choice, D2): one of each family. -/
def Obligations.ReferenceWordsDecode : Prop :=
  decodeTableWord 8 0b00000001 = some .loadCylAddrLow ∧ decodeTableWord 8 0b00000110 = some .attentionControl ∧
    decodeTableWord 8 0b00001001 = some .reformatTrack ∧ decodeTableWord 8 0b10000110 = some .reportAttribute ∧
    decodeTableWord 8 0b10000111 = some .clearFault ∧ decodeTableWord 8 0b10001001 = some .seek ∧
    decodeTableWord 8 0b10101010 = some (.unrecognized 0xAA)

/-! ### The step -/

/-- Log 1 and 3 (the model's form of R4): a step applies the first listed input: a poll cycle, or a fault-collaborator
event. -/
def Obligations.StepAppliesTheListedInput : Prop :=
  ∀ (s : State) (rest : List Input), s.config.admissible = true →
    (∀ smp dt, s.inputs = .cycle smp dt :: rest → step s = cycle smp dt { s with inputs := rest }) ∧
    (∀ n mask, s.inputs = .sense n mask :: rest → step s = .next (setSense n mask { s with inputs := rest }))

/-- R86, R100 and R118, on the model's form of a step: when the latched code decodes to `i` in EXECUTE_COMMAND, the step is
`exec i` after the cycle's common phases and the busy line, and then the class of the code says where the machine goes and
the snapshot is kept. That the input is the first listed one is the model's choice (log 1, DESIGN CHOICE); the phases before
`exec` are the spec's decisions D8 and D25 (log 13) and D9 (log 14), the snapshot D41 (log 13). -/
def Obligations.StepRunsTheLatchedCommand : Prop :=
  ∀ (s : State) (smp : Sample) (dt : Time) (rest : List Input) (i : Instr),
    s.config.admissible = true → s.protocolState = .executeCommand → s.inputs = .cycle smp dt :: rest →
    decode s.config.codes s.cmd = i →
    step s =
      match exec i (assertBusyIf (commandIsTimeDependent s.config.codes s.cmd)
          (commonPhases smp dt { s with inputs := rest })) with
      | .next u => .next { u with protocolState := afterExecute s.config.codes s.cmd, previousPins := smp }
      | .fault r => .fault r
      | .refused r => .refused r

/-- 60_exceptions.md sections 1 and 7 (R220, R234): no step ends in a fault of the machine; errors are status bits. That the
one model fault, PROTOCOL_VIOLATION, is recorded in the state and never answered as the outcome of a step is the model's
choice (log 7, DESIGN CHOICE, on the spec's decision D25). -/
def Obligations.NoStepFaults : Prop :=
  ∀ (s : State) (r : Fault), step s ≠ .fault r

/-- Logs 9 and 10 (the spec's decision D24, and R234): a step is refused exactly for a configuration that breaks R6 or R84,
and for a cycle that starts in READING or WRITING. -/
def Obligations.StepRefusesExactly : Prop :=
  ∀ (s : State) (r : Refusal), step s = .refused r ↔
    (s.config.admissible = false ∧ r = .badConfig) ∨
      (s.config.admissible = true ∧ (∃ smp dt, (takeInput s).1 = .cycle smp dt) ∧
        (s.protocolState = .reading ∨ s.protocolState = .writing) ∧ r = .dataPhaseUnmodelled)

/-! ### The common phases of a cycle -/

/-- R101: after a cycle of any state the direction is the sample's, and it is set before the state rule: what it was
before the cycle changes nothing. -/
def Obligations.DirectionFollowsTheSample : Prop :=
  ∀ (smp : Sample) (dt : Time) (s : State),
    (∀ t, cycle smp dt s = .next t → t.busDrive = (smp.dir == .d2h)) ∧
      ∀ b, cycle smp dt { s with busDrive := b } = cycle smp dt s

/-- 40_bus_state_machine.md section 1 (the spec's decision D8): with every strobe and request low, the acknowledge after a
cycle is up only from READ_COMMAND; it never falls otherwise but by re-initialization. -/
def Obligations.AcknowledgeFallsOnlyOnRelease : Prop :=
  ∀ (smp : Sample) (dt : Time) (s t : State), cycle smp dt s = .next t →
    (smp.sel = false → smp.cmdReq = false → smp.paramReq = false →
      t.ackOut = decide (s.protocolState = .readCommand)) ∧
    ((smp.sel = true ∨ smp.cmdReq = true ∨ smp.paramReq = true) → s.ackOut = true → t.ackOut = false →
      s.protocolState = .connected ∧ smp.enable = false)

/-- 40_bus_state_machine.md section 1 (the spec's decision D25): a gate asserted in a handshake state is recorded, nothing
recorded is ever lost, nothing else is recorded, and the gates change nothing else there. -/
def Obligations.ProtocolViolationRecordedAndHarmless : Prop :=
  ∀ (smp : Sample) (dt : Time) (s : State),
    (∀ t, cycle smp dt s = .next t →
      (Fault.protocolViolation ∈ t.modelFaults ↔
        Fault.protocolViolation ∈ s.modelFaults ∨
          (s.protocolState.isHandshake = true ∧ (smp.readGate = true ∨ smp.writeGate = true))) ∧
      t.refusalMark = s.refusalMark) ∧
    (s.protocolState.isHandshake = true →
      ∃ t u, cycle smp dt s = .next t ∧ cycle { smp with readGate := false, writeGate := false } dt s = .next u ∧
        t = { u with modelFaults := t.modelFaults, previousPins := smp })

/-- 10_state.md section 2 (the spec's decision D41): the snapshot is the sample of the cycle, and no cycle reads it. -/
def Obligations.SnapshotKeptAndNeverRead : Prop :=
  ∀ (smp : Sample) (dt : Time) (s : State),
    (∀ t, cycle smp dt s = .next t → t.previousPins = smp) ∧
      ∀ p, cycle smp dt { s with previousPins := p } = cycle smp dt s

/-! ### The state rules -/

/-- R106: DISCONNECTED goes to CONNECTED exactly when the enable line is asserted; nothing else happens but the common
phases, so a strobe in the same cycle is ignored. -/
def Obligations.DisconnectedWaitsForEnable : Prop :=
  ∀ (smp : Sample) (dt : Time) (s : State), s.protocolState = .disconnected →
    cycle smp dt s = .next { commonPhases smp dt s with
      protocolState := if smp.enable then .connected else .disconnected
      previousPins := smp }

/-- 70_reset_and_hazards.md section 1 (the spec's decision D29) with the edge of CONNECTED: loss of enable re-initializes
every element but the id, the direction of this cycle and the bookkeeping, whatever strobe is up. -/
def Obligations.LossOfEnableReinitializes : Prop :=
  ∀ (smp : Sample) (dt : Time) (s : State), s.protocolState = .connected → smp.enable = false →
    cycle smp dt s = .next { State.boot s.config with
      inputs := s.inputs
      draws := s.draws
      id := s.id
      busDrive := smp.dir == .d2h
      modelFaults := s.modelFaults
      refusalMark := s.refusalMark
      previousPins := smp }

/-- R108, R91: with the enable line up, CONNECTED goes to SELECTED exactly when the strobe is asserted, the direction is
host to device and bit `id` of the mask is set, asserting the acknowledge; else it stays, with the common phases only. -/
def Obligations.SelectionIsTheMaskBit : Prop :=
  ∀ (smp : Sample) (dt : Time) (s : State), s.protocolState = .connected → smp.enable = true →
    ∃ t, cycle smp dt s = .next t ∧
      (t.protocolState = .selected ↔ smp.sel = true ∧ smp.dir = .h2d ∧ smp.bus.getLsbD s.id.toNat = true) ∧
      (t.protocolState = .selected → t = { commonPhases smp dt s with
        ackOut := true, protocolState := .selected, previousPins := smp }) ∧
      (t.protocolState ≠ .selected → t = { commonPhases smp dt s with previousPins := smp })

/-- R110, R111, R112: in SELECTED a command request with the direction host to device wins, then the read gate, then the
write gate; each only moves the state, and after a gate every next cycle refuses. -/
def Obligations.SelectedRequestBeforeGates : Prop :=
  ∀ (smp : Sample) (dt : Time) (s : State), s.protocolState = .selected →
    ((smp.dir = .h2d ∧ smp.cmdReq = true) → cycle smp dt s = .next { commonPhases smp dt s with
      protocolState := .readCommand, previousPins := smp }) ∧
    (¬(smp.dir = .h2d ∧ smp.cmdReq = true) → smp.readGate = true →
      ∃ t, cycle smp dt s = .next t ∧
        t = { commonPhases smp dt s with protocolState := .reading, previousPins := smp } ∧
        ∀ smp' dt', cycle smp' dt' t = .refused .dataPhaseUnmodelled) ∧
    (¬(smp.dir = .h2d ∧ smp.cmdReq = true) → smp.readGate = false → smp.writeGate = true →
      ∃ t, cycle smp dt s = .next t ∧
        t = { commonPhases smp dt s with protocolState := .writing, previousPins := smp } ∧
        ∀ smp' dt', cycle smp' dt' t = .refused .dataPhaseUnmodelled)

/-- R113: in SELECTED, with no request and no gate, a strobe host to device re-asserts the acknowledge if the mask bit is
set, and goes to CONNECTED without touching the acknowledge if it is not. -/
def Obligations.ReselectionFollowsTheMask : Prop :=
  ∀ (smp : Sample) (dt : Time) (s : State), s.protocolState = .selected → smp.cmdReq = false →
    smp.readGate = false → smp.writeGate = false → smp.sel = true → smp.dir = .h2d →
    cycle smp dt s =
      if smp.bus.getLsbD s.id.toNat then .next { commonPhases smp dt s with ackOut := true, previousPins := smp }
      else .next { commonPhases smp dt s with protocolState := .connected, previousPins := smp }

/-- 40_bus_state_machine.md section 2 (the spec's decision D27, and R115): a strobe device to host with no gate puts the
byte with only bit `id` on the bus; with no strobe, no gate and no request the state only takes the common phases. -/
def Obligations.RadialStatusAndIdle : Prop :=
  ∀ (smp : Sample) (dt : Time) (s : State), s.protocolState = .selected → smp.readGate = false →
    smp.writeGate = false →
    (smp.sel = true → smp.dir = .d2h → ∃ t, cycle smp dt s = .next t ∧
      t = { commonPhases smp dt s with busOut := t.busOut, previousPins := smp } ∧
      (∀ b : Nat, t.busOut.getLsbD b = decide (b = s.id.toNat)) ∧ drivenByte t = some t.busOut) ∧
    (smp.sel = false → ¬(smp.dir = .h2d ∧ smp.cmdReq = true) →
      cycle smp dt s = .next { commonPhases smp dt s with previousPins := smp })

/-- 40_bus_state_machine.md section 3 (the spec's decision D42): READ_COMMAND latches the bus byte and asserts the
acknowledge whatever the lines say, and bit 7 of the byte says where it goes. -/
def Obligations.ReadCommandLatchesUnconditionally : Prop :=
  ∀ (smp : Sample) (dt : Time) (s : State), s.protocolState = .readCommand →
    cycle smp dt s = .next { commonPhases smp dt s with
      cmd := smp.bus
      ackOut := true
      protocolState := if smp.bus.getLsbD 7 then .executeCommand else .awaitingParamOut
      previousPins := smp }

/-- R117: AWAITING_PARAM_OUT latches the parameter, asserts the acknowledge and goes to EXECUTE_COMMAND exactly when the
direction is host to device and the parameter request is asserted; else it stays. -/
def Obligations.ParamOutLatchedOnRequest : Prop :=
  ∀ (smp : Sample) (dt : Time) (s : State), s.protocolState = .awaitingParamOut →
    (smp.dir = .h2d ∧ smp.paramReq = true → cycle smp dt s = .next { commonPhases smp dt s with
      paramOut := smp.bus, ackOut := true, protocolState := .executeCommand, previousPins := smp }) ∧
    (¬(smp.dir = .h2d ∧ smp.paramReq = true) →
      cycle smp dt s = .next { commonPhases smp dt s with previousPins := smp }) ∧
    (∀ t, cycle smp dt s = .next t → (smp.readGate = true ∨ smp.writeGate = true) →
      Fault.protocolViolation ∈ t.modelFaults)

/-- R118: EXECUTE_COMMAND asserts busy for a time-dependent code (also for a SEEK that registers nothing), runs the command
in this one cycle whatever the sample holds, and goes on by the class. -/
def Obligations.ExecuteCommandCompletes : Prop :=
  ∀ (smp : Sample) (dt : Time) (s : State), s.protocolState = .executeCommand →
    ∃ u t, exec (decode s.config.codes s.cmd)
        (assertBusyIf (commandIsTimeDependent s.config.codes s.cmd) (commonPhases smp dt s)) = .next u ∧
      cycle smp dt s = .next t ∧
      t = { u with
        protocolState :=
          if s.cmd.getLsbD 7 then .awaitingParamIn
          else if commandIsTimeDependent s.config.codes s.cmd then .awaitingTimeDependentCommand else .selected
        previousPins := smp } ∧
      t.busyOut = (s.busyOut || commandIsTimeDependent s.config.codes s.cmd) ∧
      (smp.readGate = true ∨ smp.writeGate = true → Fault.protocolViolation ∈ t.modelFaults)

/-- R120: AWAITING_PARAM_IN puts the response on the bus, asserts the acknowledge and leaves by the class exactly when the
direction is device to host and the parameter request is asserted; else it stays. -/
def Obligations.ParamInSentOnRequest : Prop :=
  ∀ (smp : Sample) (dt : Time) (s : State), s.protocolState = .awaitingParamIn →
    (smp.dir = .d2h ∧ smp.paramReq = true → ∃ t, cycle smp dt s = .next t ∧
      t = { commonPhases smp dt s with
        busOut := s.paramIn
        ackOut := true
        protocolState :=
          if commandIsTimeDependent s.config.codes s.cmd then .awaitingTimeDependentCommand else .selected
        previousPins := smp } ∧
      drivenByte t = some s.paramIn) ∧
    (¬(smp.dir = .d2h ∧ smp.paramReq = true) →
      cycle smp dt s = .next { commonPhases smp dt s with previousPins := smp }) ∧
    (∀ t, cycle smp dt s = .next t → (smp.readGate = true ∨ smp.writeGate = true) →
      Fault.protocolViolation ∈ t.modelFaults)

/-- 40_bus_state_machine.md section 3 (the spec's decisions D9, D38, D46): in AWAITING_TIME_DEPENDENT_COMMAND a cycle whose
elapsed time is short of the duration only takes the common phases; one that completes lowers busy, raises attention,
clears BUSY, drops the registration, commits the captured cylinder and returns to SELECTED; with nothing registered it
completes at once and commits nothing. -/
def Obligations.TimeDependentCompletion : Prop :=
  ∀ (smp : Sample) (dt : Time) (s : State), s.protocolState = .awaitingTimeDependentCommand →
    (s.schedActive = true → min (s.schedElapsed.toNat + dt.toNat) (2 ^ 32 - 1) < s.schedDuration.toNat →
      cycle smp dt s = .next { commonPhases smp dt s with previousPins := smp }) ∧
    (s.schedActive = true → s.schedDuration.toNat ≤ min (s.schedElapsed.toNat + dt.toNat) (2 ^ 32 - 1) →
      ∃ t, cycle smp dt s = .next t ∧
        t = { commonPhases smp dt s with
          busyOut := false
          attentionPending := true
          protocolState := .selected
          schedActive := false
          schedAction := .none
          generalStatus := s.generalStatus &&& 0xFE
          currentCylinderHigh := t.currentCylinderHigh
          currentCylinderLow := t.currentCylinderLow
          previousPins := smp } ∧
        (∀ hi lo, s.schedAction = .commitSeek hi lo → t.currentCylinderHigh = hi ∧ t.currentCylinderLow = lo) ∧
        (s.schedAction = .commitRezero → t.currentCylinderHigh = 0x00 ∧ t.currentCylinderLow = 0x00) ∧
        (s.schedAction = .none →
          t.currentCylinderHigh = s.currentCylinderHigh ∧ t.currentCylinderLow = s.currentCylinderLow)) ∧
    (s.schedActive = false →
      cycle smp dt s = .next { commonPhases smp dt s with
        busyOut := false, attentionPending := true, protocolState := .selected, previousPins := smp })

/-- 40_bus_state_machine.md section 4 (R123, which the spec marks as derived from R106 to R121): the state after a cycle is
the one of the transition table, and a cycle refuses exactly where the table has no edge. -/
def Obligations.TransitionGraphIsComplete : Prop :=
  ∀ (smp : Sample) (dt : Time) (s : State),
    (∀ t, cycle smp dt s = .next t → edge smp dt s = some t.protocolState) ∧
      (edge smp dt s = none ↔ cycle smp dt s = .refused .dataPhaseUnmodelled) ∧
      (edge smp dt s ≠ none → ∃ t, cycle smp dt s = .next t)

/-- 40_bus_state_machine.md section 4 (the spec's decision D26): outside DISCONNECTED and CONNECTED the enable line changes
nothing but the snapshot. -/
def Obligations.EnableReadOnlyInTwoStates : Prop :=
  ∀ (smp : Sample) (dt : Time) (s t : State) (e : Bool),
    s.protocolState ≠ .disconnected → s.protocolState ≠ .connected → cycle smp dt s = .next t →
    cycle { smp with enable := e } dt s = .next { t with previousPins := { smp with enable := e } }

/-! ### Who writes what -/

/-- R25, R26 (and 10_state.md section 2 for `param_in`): `cmd` is written by READ_COMMAND, `param_out` by AWAITING_PARAM_OUT and `param_in` by the executor, and
by nothing else but re-initialization. -/
def Obligations.LatchesHaveOneWriter : Prop :=
  ∀ (smp : Sample) (dt : Time) (s t : State), cycle smp dt s = .next t →
    ¬(s.protocolState = .connected ∧ smp.enable = false) →
    (s.protocolState ≠ .readCommand → t.cmd = s.cmd) ∧
    (s.protocolState ≠ .awaitingParamOut → t.paramOut = s.paramOut) ∧
    (s.protocolState ≠ .executeCommand → t.paramIn = s.paramIn)

/-- 10_state.md section 4: the current cylinder is written only when a SEEK or REZERO completes (and by re-initialization). -/
def Obligations.CurrentCylinderWrittenOnlyAtCompletion : Prop :=
  ∀ (smp : Sample) (dt : Time) (s t : State), cycle smp dt s = .next t →
    ¬(s.protocolState = .connected ∧ smp.enable = false) →
    cylinderNumber t.currentCylinderHigh t.currentCylinderLow ≠
      cylinderNumber s.currentCylinderHigh s.currentCylinderLow →
    s.protocolState = .awaitingTimeDependentCommand ∧ s.schedActive = true ∧ pollCompletes dt s = true ∧
      (s.schedAction = .commitSeek t.currentCylinderHigh t.currentCylinderLow ∨
        (s.schedAction = .commitRezero ∧ cylinderNumber t.currentCylinderHigh t.currentCylinderLow = 0))

/-- 60_exceptions.md section 5 (the spec's decision D32): no cycle sets a sense bit; a bit that falls falls by CLEAR_FAULT
or re-initialization. -/
def Obligations.NoCycleSetsASenseBit : Prop :=
  ∀ (smp : Sample) (dt : Time) (s t : State) (n : SenseByte) (b : Nat), cycle smp dt s = .next t →
    ((senseByte n t).getLsbD b = true → (senseByte n s).getLsbD b = true) ∧
    ((senseByte n s).getLsbD b = true → (senseByte n t).getLsbD b = false →
      (s.protocolState = .connected ∧ smp.enable = false) ∨
        (s.protocolState = .executeCommand ∧ decode s.config.codes s.cmd = .clearFault))

/-- R227: the attention condition rises exactly at a completion of AWAITING_TIME_DEPENDENT_COMMAND, at an illegal parameter,
and at a rising attention-raising sense bit. -/
def Obligations.AttentionRisesExactlyAtItsCauses : Prop :=
  (∀ (smp : Sample) (dt : Time) (s t : State), cycle smp dt s = .next t → s.attentionPending = false →
    (t.attentionPending = true ↔
      (s.protocolState = .awaitingTimeDependentCommand ∧ pollCompletes dt s = true) ∨
        (s.protocolState = .executeCommand ∧
          raisesIllegalParameter (decode s.config.codes s.cmd) s = true))) ∧
  (∀ (n : SenseByte) (mask : Byte) (s : State), s.attentionPending = false →
    ((setSense n mask s).attentionPending = true ↔
      ∃ b < 8, mask.getLsbD b = true ∧ (senseByte n s).getLsbD b = false ∧
        (attentionMask n s.config).getLsbD b = true))

/-- 60_exceptions.md section 4 (the spec's decision D16): the attention condition falls exactly at CLEAR_FAULT,
CLEAR_ATTENTION and re-initialization. -/
def Obligations.AttentionFallsExactlyAtTheClears : Prop :=
  ∀ (smp : Sample) (dt : Time) (s t : State), cycle smp dt s = .next t → s.attentionPending = true →
    (t.attentionPending = false ↔
      (s.protocolState = .connected ∧ smp.enable = false) ∨
        (s.protocolState = .executeCommand ∧
          (decode s.config.codes s.cmd = .clearFault ∨ decode s.config.codes s.cmd = .clearAttention)))

/-- R208: a registration ends only by a completing poll, by a command that starts another, or by re-initialization; until
then its duration and action stay. An overwritten or re-initialized one never runs its action. -/
def Obligations.RegistrationIsNeverCancelled : Prop :=
  ∀ (smp : Sample) (dt : Time) (s t : State), cycle smp dt s = .next t → s.schedActive = true →
    (t.schedActive = true ∧ t.schedDuration = s.schedDuration ∧ t.schedAction = s.schedAction) ∨
      (s.protocolState = .awaitingTimeDependentCommand ∧ pollCompletes dt s = true ∧ t.schedActive = false) ∨
      (s.protocolState = .executeCommand ∧ isTimeDependentCommand (decode s.config.codes s.cmd) = true ∧
        t.schedActive = true ∧ t.schedElapsed = 0 ∧ t.currentCylinderHigh = s.currentCylinderHigh ∧
        t.currentCylinderLow = s.currentCylinderLow) ∨
      (s.protocolState = .connected ∧ smp.enable = false ∧ t.schedActive = false ∧ t.currentCylinderHigh = 0x00 ∧
        t.currentCylinderLow = 0x00)

/-! ### The commands (41_command_executor.md) -/

/-- R144, R145, R148: the reports of the sense bytes and of the test byte complete, answer their register and change
nothing else; after reset the test byte is 0x00. -/
def Obligations.SenseAndTestReports : Prop :=
  (∀ s : State, exec .reportSenseByte1 s = .next { s with paramIn := s.senseByte1 } ∧
    exec .reportSenseByte2 s = .next { s with paramIn := s.senseByte2 } ∧
    exec .reportTestByte s = .next { s with paramIn := s.testByte }) ∧
  EncodedAs .reportSenseByte1 0x81 false false ∧ EncodedAs .reportSenseByte2 0x82 false false ∧
  EncodedAs .reportTestByte 0x85 false false ∧ State.reset.testByte = 0x00

/-- 41_command_executor.md section 2 (the spec's decisions D23, D34): the reports of the status and of the committed
cylinder complete, answer their register and change nothing else; the reserved status bits read as 0. -/
def Obligations.StatusAndCylinderReports : Prop :=
  (∀ s : State, exec .reportGeneralStatus s = .next { s with paramIn := s.generalStatus } ∧
    exec .reportCylAddrHigh s = .next { s with paramIn := s.currentCylinderHigh } ∧
    exec .reportCylAddrLow s = .next { s with paramIn := s.currentCylinderLow }) ∧
  (∀ s t : State, s.ReservedClear → exec .reportGeneralStatus s = .next t →
    ∀ b, 5 ≤ b → t.paramIn.getLsbD b = false) ∧
  EncodedAs .reportGeneralStatus 0x80 false false ∧ EncodedAs .reportCylAddrHigh 0x83 false false ∧
  EncodedAs .reportCylAddrLow 0x84 false false

/-- 41_command_executor.md section 2 (the spec's decisions D13, D33): REPORT_ATTRIBUTE always completes with the table
initialized, keeping earlier contents; below 72 it answers the entry, else it raises IllegalParameter and answers the
status. -/
def Obligations.ReportAttributeCompletes : Prop :=
  ∀ s : State, ∃ t, exec .reportAttribute s = .next t ∧
    (∀ i : Fin attributeTableSize, t.attributes.read i.val = initializedEntry s i) ∧
    (s.attributesInitialized = true → t.attributes = s.attributes) ∧
    (∀ h : s.attributeNumber.toNat < attributeTableSize,
      t = { s with
        attributes := t.attributes
        attributesInitialized := true
        paramIn := initializedEntry s ⟨s.attributeNumber.toNat, h⟩ }) ∧
    (attributeTableSize ≤ s.attributeNumber.toNat →
      t = { s with
        attributes := t.attributes
        attributesInitialized := true
        attentionPending := true
        generalStatus := s.generalStatus ||| 0x04
        paramIn := s.generalStatus ||| 0x04 })

/-- R157: LOAD_ATTRIBUTE always completes with the table initialized first; below 72 it stores the parameter at the index
`attribute_number` and at no other, else it stores nothing and raises IllegalParameter. Nothing else changes but the
response, so the index does not move. -/
def Obligations.LoadAttributeCompletes : Prop :=
  EncodedAs .loadAttribute 0x03 true false ∧
  ∀ s : State, s.attributes.wf → ∃ t, exec .loadAttribute s = .next t ∧
    (s.attributeNumber.toNat < attributeTableSize →
      (∀ i : Fin attributeTableSize, t.attributes.read i.val =
        if i.val = s.attributeNumber.toNat then s.paramOut else initializedEntry s i) ∧
      t = { s with attributes := t.attributes, attributesInitialized := true, paramIn := s.generalStatus }) ∧
    (attributeTableSize ≤ s.attributeNumber.toNat →
      (∀ i : Fin attributeTableSize, t.attributes.read i.val = initializedEntry s i) ∧
      t = { s with
        attributes := t.attributes
        attributesInitialized := true
        attentionPending := true
        generalStatus := s.generalStatus ||| 0x04
        paramIn := s.generalStatus ||| 0x04 })

/-- R62: the lazy initialization derives the table from the geometry on the first access only, and a byte written since
survives later accesses. -/
def Obligations.LazyInitializationRunsOnce : Prop :=
  ∀ s : State,
    (∀ i : Fin attributeTableSize, (attrEnsureInit s).attributes.read i.val = initializedEntry s i) ∧
    (attrEnsureInit s).attributesInitialized = true ∧
    (s.attributesInitialized = true → attrEnsureInit s = s) ∧
    attrEnsureInit (attrEnsureInit s) = attrEnsureInit s ∧
    (s.attributesInitialized = false →
      attrEnsureInit s = { s with attributes := (attrEnsureInit s).attributes, attributesInitialized := true }) ∧
    (s.attributes.wf → ∀ (i j : Fin attributeTableSize) (v : Byte),
      (memRead j (memWrite i v s)).1 = if i = j then v else (memRead j s).1)

/-- R154, R155, R158: the loads of the cylinder bytes and of the test byte complete, store the parameter in their register,
answer the status and change nothing else. -/
def Obligations.CylinderAndTestLoads : Prop :=
  (∀ s : State,
    exec .loadCylAddrHigh s = .next { s with loadCylinderHigh := s.paramOut, paramIn := s.generalStatus } ∧
    exec .loadCylAddrLow s = .next { s with loadCylinderLow := s.paramOut, paramIn := s.generalStatus } ∧
    exec .loadTestByte s = .next { s with testByte := s.paramOut, paramIn := s.generalStatus }) ∧
  EncodedAs .loadCylAddrHigh 0x00 true false ∧ EncodedAs .loadCylAddrLow 0x01 true false ∧
  EncodedAs .loadTestByte 0x04 true false

/-- 41_command_executor.md sections 5 and 6 (the spec's decisions D13, D19): LOAD_ATTRIBUTE_NUMBER stores any byte and does
not initialize the table; the toggles take bit 7 of the parameter, and a pending attention is kept. -/
def Obligations.IndexLoadAndModeToggles : Prop :=
  (∀ s : State,
    exec .loadAttributeNumber s = .next { s with attributeNumber := s.paramOut, paramIn := s.generalStatus } ∧
    exec .attentionControl s =
      .next { s with attentionEnabled := s.paramOut.getLsbD 7, paramIn := s.generalStatus } ∧
    exec .writeControl s = .next { s with writeEnabled := s.paramOut.getLsbD 7, paramIn := s.generalStatus }) ∧
  EncodedAs .loadAttributeNumber 0x02 true false ∧ EncodedAs .attentionControl 0x06 true false ∧
  EncodedAs .writeControl 0x07 true false

/-- 41_command_executor.md section 5 (the spec's decision D13): SELECT_HEAD stores a head below HEADS; any other head leaves
the register, sets ILLEGAL_PARAMETER and raises attention. -/
def Obligations.SelectHeadChecksTheHead : Prop :=
  EncodedAs .selectHead 0x05 true false ∧
  ∀ s : State,
    (s.paramOut.toNat < s.config.geometry.heads →
      exec .selectHead s = .next { s with selectedHead := s.paramOut, paramIn := s.generalStatus }) ∧
    (s.config.geometry.heads ≤ s.paramOut.toNat →
      exec .selectHead s = .next { s with
        attentionPending := true
        generalStatus := s.generalStatus ||| 0x04
        paramIn := s.generalStatus ||| 0x04 })

/-- 41_command_executor.md section 3 (the spec's decisions D16, D17, D45): CLEAR_FAULT keeps exactly the sense bits whose
fault is present, makes the summary bits agree, leaves the other status bits, clears attention unconditionally and answers
the status after. -/
def Obligations.ClearFaultKeepsPresentFaults : Prop :=
  EncodedAs .clearFault 0x87 false false ∧
  ∀ s : State, ∃ t, exec .clearFault s = .next t ∧
    (∀ b, t.senseByte1.getLsbD b = (s.senseByte1.getLsbD b && s.config.faultPresent1.getLsbD b)) ∧
    (∀ b, t.senseByte2.getLsbD b = (s.senseByte2.getLsbD b && s.config.faultPresent2.getLsbD b)) ∧
    t.SummariesAgree ∧
    (∀ b, b ≠ 3 → b ≠ 4 → t.generalStatus.getLsbD b = s.generalStatus.getLsbD b) ∧
    t = { s with
      senseByte1 := t.senseByte1
      senseByte2 := t.senseByte2
      generalStatus := t.generalStatus
      attentionPending := false
      paramIn := t.generalStatus }

/-- 41_command_executor.md section 3 (the spec's decision D16): CLEAR_ATTENTION clears the two illegal bits and attention,
and leaves the other status bits and the sense bytes. -/
def Obligations.ClearAttentionClearsTheIllegalBits : Prop :=
  EncodedAs .clearAttention 0x88 false false ∧
  ∀ s : State, exec .clearAttention s = .next { s with
    generalStatus := s.generalStatus &&& 0xF9
    attentionPending := false
    paramIn := s.generalStatus &&& 0xF9 }

/-- 41_command_executor.md section 4 (the spec's decisions D13, D14, D21, D47): a SEEK below CYLINDERS registers its
duration and the target captured now; one at or beyond it registers nothing and raises IllegalParameter. -/
def Obligations.SeekCapturesOrRejectsItsTarget : Prop :=
  EncodedAs .seek 0x89 false true ∧
  ∀ s : State,
    (s.loadCylinderHigh.toNat * 256 + s.loadCylinderLow.toNat < s.config.geometry.cylinders →
      exec .seek s = .next { s with
        schedActive := true
        schedDuration := s.config.durations.seek
        schedElapsed := 0
        schedAction := .commitSeek s.loadCylinderHigh s.loadCylinderLow
        generalStatus := s.generalStatus ||| 0x01
        paramIn := s.generalStatus ||| 0x01 }) ∧
    (s.config.geometry.cylinders ≤ s.loadCylinderHigh.toNat * 256 + s.loadCylinderLow.toNat →
      exec .seek s = .next { s with
        attentionPending := true
        generalStatus := s.generalStatus ||| 0x04
        paramIn := s.generalStatus ||| 0x04 })

/-- 41_command_executor.md sections 4 and 7 (the spec's decisions D4, D22; 90_conflicts.md C1): REZERO and the four
placeholders register their own duration and action, set BUSY, answer the status and change nothing else. -/
def Obligations.RezeroAndPlaceholdersRegister : Prop :=
  (∀ s : State, ∀ p ∈ ([(.rezero, s.config.durations.rezero, .commitRezero),
      (.setAttention, s.config.durations.setAttention, .none),
      (.selectiveReset, s.config.durations.selectiveReset, .none),
      (.reformatTrack, s.config.durations.reformatTrack, .none),
      (.spinControl, s.config.durations.spinControl, .none)] : List (Instr × Time × SchedAction)),
    exec p.1 s = .next { s with
      schedActive := true
      schedDuration := p.2.1
      schedElapsed := 0
      schedAction := p.2.2
      generalStatus := s.generalStatus ||| 0x01
      paramIn := s.generalStatus ||| 0x01 }) ∧
  EncodedAs .rezero 0x8A false true ∧ EncodedAs .setAttention 0x8B false true ∧
  EncodedAs .selectiveReset 0x08 true true ∧ EncodedAs .reformatTrack 0x09 true true ∧
  EncodedAs .spinControl 0x0A true true

/-- 41_command_executor.md section 8 (the spec's decision D15): every unrecognized code sets ILLEGAL_COMMAND, answers the
status, raises no attention and changes nothing else. -/
def Obligations.UnrecognizedSetsIllegalCommand : Prop :=
  ∀ (c : Byte) (s : State), exec (.unrecognized c) s = .next { s with
    generalStatus := s.generalStatus ||| 0x02
    paramIn := s.generalStatus ||| 0x02 }

/-- 41_command_executor.md section 1: every command completes in every state, and the executor never writes the protocol
state, the acknowledge, busy, the bus register or the direction, nor the latches, the snapshot, the id, the parameters or
the bookkeeping. -/
def Obligations.EveryCommandCompletesAndOwnsNoHandshake : Prop :=
  ∀ (i : Instr) (s : State), ∃ t, exec i s = .next t ∧
    t.protocolState = s.protocolState ∧ t.ackOut = s.ackOut ∧ t.busyOut = s.busyOut ∧ t.busOut = s.busOut ∧
    t.busDrive = s.busDrive ∧ t.cmd = s.cmd ∧ t.paramOut = s.paramOut ∧ t.previousPins = s.previousPins ∧
    t.id = s.id ∧ t.config = s.config ∧ t.modelFaults = s.modelFaults ∧ t.refusalMark = s.refusalMark ∧
    t.inputs = s.inputs ∧ t.draws = s.draws

/-- 41_command_executor.md section 1 (the spec's decisions D13, D15, D20): a command raises at most one error. It sets
ILLEGAL_PARAMETER exactly on its illegal operands, with attention; it sets ILLEGAL_COMMAND exactly when it is unrecognized;
on illegal operands it registers nothing and stores no head. -/
def Obligations.ErrorsAreRaisedExactly : Prop :=
  ∀ (i : Instr) (s t : State), exec i s = .next t →
    (s.illegalParameterBit = false →
      (t.illegalParameterBit = true ↔ raisesIllegalParameter i s = true)) ∧
    (s.illegalCommandBit = false → (t.illegalCommandBit = true ↔ ∃ c, i = .unrecognized c)) ∧
    (raisesIllegalParameter i s = true →
      t.attentionPending = true ∧ t.schedActive = s.schedActive ∧ t.selectedHead = s.selectedHead ∧
        t.paramIn = t.generalStatus)

/-! ### Sense bytes, attention, Scheduler -/

/-- 60_exceptions.md section 3 (the spec's decisions D7, D32, D45): `SetSense` ORs the mask, makes the summary bit agree and
raises attention exactly when an attention-raising bit rises; `ClearSense` clears the masked bits, makes the summary bit
agree and never touches attention; neither changes anything else. -/
def Obligations.SensePrimitivesKeepTheSummary : Prop :=
  ∀ (mask : Byte) (s : State),
    (setSense .one mask s = { s with
      senseByte1 := s.senseByte1 ||| mask
      attentionPending := s.attentionPending || (mask &&& ~~~s.senseByte1 != 0)
      generalStatus := (setSense .one mask s).generalStatus }) ∧
    (setSense .two mask s = { s with
      senseByte2 := s.senseByte2 ||| mask
      attentionPending := s.attentionPending || (mask &&& ~~~s.senseByte2 &&& s.config.sense2AttentionMask != 0)
      generalStatus := (setSense .two mask s).generalStatus }) ∧
    (∀ b, (setSense .one mask s).generalStatus.getLsbD b =
      if b = 3 then s.senseByte1 ||| mask != 0 else s.generalStatus.getLsbD b) ∧
    (∀ b, (setSense .two mask s).generalStatus.getLsbD b =
      if b = 4 then s.senseByte2 ||| mask != 0 else s.generalStatus.getLsbD b) ∧
    (clearSense .one mask s = { s with
      senseByte1 := s.senseByte1 &&& ~~~mask, generalStatus := (clearSense .one mask s).generalStatus }) ∧
    (clearSense .two mask s = { s with
      senseByte2 := s.senseByte2 &&& ~~~mask, generalStatus := (clearSense .two mask s).generalStatus }) ∧
    (∀ b, (clearSense .one mask s).generalStatus.getLsbD b =
      if b = 3 then s.senseByte1 &&& ~~~mask != 0 else s.generalStatus.getLsbD b) ∧
    (∀ b, (clearSense .two mask s).generalStatus.getLsbD b =
      if b = 4 then s.senseByte2 &&& ~~~mask != 0 else s.generalStatus.getLsbD b)

/-- 60_exceptions.md section 2 (R222): IllegalParameter sets its status bit and the attention condition and nothing else. No
cycle clears the bit but CLEAR_ATTENTION (41_command_executor.md section 3, the spec's decision D16, log 15) and
re-initialization (70_reset_and_hazards.md section 1, the spec's decision D29, log 16). -/
def Obligations.IllegalParameterIsSticky : Prop :=
  (∀ s : State, raiseIllegalParameter s =
      { s with generalStatus := s.generalStatus ||| 0x04, attentionPending := true }) ∧
  (∀ (smp : Sample) (dt : Time) (s t : State), cycle smp dt s = .next t → s.illegalParameterBit = true →
    (t.illegalParameterBit = false ↔
      (s.protocolState = .connected ∧ smp.enable = false) ∨
        (s.protocolState = .executeCommand ∧ decode s.config.codes s.cmd = .clearAttention)))

/-- 60_exceptions.md section 4 (the spec's decisions D46, D19): the attention line is the condition gated by its enable, so
a condition raised while the line is disabled shows on the line when a later ATTENTION_CONTROL enables it. -/
def Obligations.AttentionLineIsGated : Prop :=
  ∀ s : State,
    (attentionLine s = true ↔ s.attentionPending = true ∧ s.attentionEnabled = true) ∧
    (∀ t, exec .attentionControl s = .next t →
      attentionLine t = (s.attentionPending && s.paramOut.getLsbD 7) ∧ t.attentionPending = s.attentionPending)

/-- R201: `SchedStart` overwrites the registration, resets the counter and sets BUSY; a duration of 0 completes at the
first poll, whatever time passes. -/
def Obligations.SchedStartOverwrites : Prop :=
  ∀ (d : Time) (a : SchedAction) (s : State),
    schedStart d a s = { s with
      schedActive := true
      schedDuration := d
      schedElapsed := 0
      schedAction := a
      generalStatus := s.generalStatus ||| 0x01 } ∧
    (∀ (d' : Time) (a' : SchedAction), schedStart d a (schedStart d' a' s) = schedStart d a s) ∧
    (∀ dt : Time, (schedPoll (schedAdvance dt (schedStart 0 a s))).1 = .complete)

/-- 42_scheduler.md (the spec's decision D9): the counter of an active registration saturates at 2^32 - 1 and never
decreases; an inactive one does not move; nothing else changes. -/
def Obligations.SchedAdvanceSaturates : Prop :=
  ∀ (dt : Time) (s : State),
    (schedAdvance dt s).schedElapsed.toNat =
      (if s.schedActive then min (s.schedElapsed.toNat + dt.toNat) (2 ^ 32 - 1) else s.schedElapsed.toNat) ∧
    s.schedElapsed.toNat ≤ (schedAdvance dt s).schedElapsed.toNat ∧
    schedAdvance dt s = { s with schedElapsed := (schedAdvance dt s).schedElapsed }

/-- 42_scheduler.md (R210, which the spec marks as derived; the poll of D38): with one unit of time and a poll per cycle,
a registration of duration d >= 1 answers RUNNING at polls 1 to d-1, runs its action and answers COMPLETE at poll d, and
every later poll answers COMPLETE and changes nothing. -/
def Obligations.SchedulerRoundTrip : Prop :=
  ∀ (d : Time) (a : SchedAction) (s : State), 1 ≤ d.toNat →
    (∀ k, k + 1 < d.toNat →
      (tick (ticks k (schedStart d a s))).1 = .running ∧
        (ticks (k + 1) (schedStart d a s)).schedElapsed.toNat = k + 1 ∧
        (ticks (k + 1) (schedStart d a s)).currentCylinderHigh = s.currentCylinderHigh ∧
        (ticks (k + 1) (schedStart d a s)).currentCylinderLow = s.currentCylinderLow) ∧
    (tick (ticks (d.toNat - 1) (schedStart d a s))).1 = .complete ∧
    ticks d.toNat (schedStart d a s) =
      { runAction a s with
        schedActive := false
        schedDuration := d
        schedElapsed := d
        schedAction := .none
        generalStatus := clearBits s.generalStatus busyMask } ∧
    (∀ k, d.toNat ≤ k →
      tick (ticks k (schedStart d a s)) = (.complete, ticks d.toNat (schedStart d a s)))

/-! ### Reset and invariants -/

/-- 70_reset_and_hazards.md section 1 (the spec's decisions D18, D28, D30, D44; the reference parameters are log 4): what
boot reset leaves, under every configuration. -/
def Obligations.BootResetState : Prop :=
  (∀ c : Config, (State.boot c).protocolState = .disconnected ∧
    (State.boot c).id = BitVec.ofNat 3 c.deviceId ∧
    (State.boot c).attentionEnabled = c.attentionEnableReset ∧
    (State.boot c).generalStatus = 0x00 ∧ (State.boot c).senseByte1 = 0x00 ∧ (State.boot c).senseByte2 = 0x00 ∧
    (State.boot c).attentionPending = false ∧ (State.boot c).writeEnabled = false ∧
    (State.boot c).selectedHead = 0x00 ∧
    (State.boot c).currentCylinderHigh = 0x00 ∧ (State.boot c).currentCylinderLow = 0x00 ∧
    (State.boot c).loadCylinderHigh = 0x00 ∧ (State.boot c).loadCylinderLow = 0x00 ∧
    (State.boot c).cmd = 0x00 ∧ (State.boot c).paramOut = 0x00 ∧ (State.boot c).paramIn = 0x00 ∧
    (State.boot c).testByte = 0x00 ∧ (State.boot c).attributeNumber = 0x00 ∧
    (∀ i, (State.boot c).attributes.read i = 0x00) ∧ (State.boot c).attributesInitialized = false ∧
    (State.boot c).schedActive = false ∧ (State.boot c).schedAction = .none ∧ (State.boot c).schedElapsed = 0 ∧
    (State.boot c).schedDuration = 0 ∧
    outputs (State.boot c) =
      { ackOut := false, busyOut := false, attentionLine := false, busDrive := false, busOut := 0x00 } ∧
    (State.boot c).previousPins = Sample.allLow ∧ (State.boot c).clean = true) ∧
  State.reset = State.boot Config.reference

/-- The invariant of runs holds at boot reset of every configuration the model accepts, so at `State.reset`. Of its clauses
the id is 10_state.md section 2 (R21), the status bits are section 3, the busy line and the active registration section 11
(R56 and R57, which the spec marks as derived). Two are the model's own choices: the canonical attribute list (log 5, DESIGN
CHOICE) and the fault list without repeats (log 7, DESIGN CHOICE). -/
def Obligations.InvariantHoldsAtReset : Prop :=
  (∀ c : Config, c.admissible = true → (State.boot c).Inv) ∧ State.reset.Inv

/-- Every step keeps the invariant of runs: the id is the configured one (10_state.md section 2, R21); the reserved status
bits are 0, BUSY agrees with the Scheduler and the summaries with the sense bytes (section 3); the busy line agrees with the
protocol state and a registration is active only while busy (section 11, R56 and R57, which the spec marks as derived). Two
clauses are the model's own choices: the attribute list is canonical (log 5, DESIGN CHOICE) and the fault list has no
repeats (log 7, DESIGN CHOICE). -/
def Obligations.InvariantKeptByEveryStep : Prop :=
  ∀ s t : State, s.Inv → step s = .next t → t.Inv

/-- R30: BUSY is set if and only if a registration is active; every step of every state keeps it, and it holds at reset. -/
def Obligations.BusyBitIsTheRegistration : Prop :=
  State.reset.BusyAgrees ∧ ∀ s t : State, s.BusyAgrees → step s = .next t → t.BusyAgrees

/-- 10_state.md section 3 (the spec's decision D45): each summary bit is "its sense byte is not 0"; every step of every state
keeps it, a fault-collaborator event too, and it holds at reset. -/
def Obligations.SummaryBitsFollowTheSenseBytes : Prop :=
  State.reset.SummariesAgree ∧ ∀ s t : State, s.SummariesAgree → step s = .next t → t.SummariesAgree

/-- 10_state.md section 2 (R21): boot gives the id the value of the parameter `ID`, and no step writes the id. No step
writes a parameter of the step either: that is section 10 (R55), in the form of the model's choice to hold the parameters
in the state (log 4, DESIGN CHOICE). -/
def Obligations.IdAndParametersNeverChange : Prop :=
  (∀ c : Config, c.admissible = true → (State.boot c).id.toNat = c.deviceId) ∧
    ∀ s t : State, step s = .next t → t.id = s.id ∧ t.config = s.config

/-! ### Whole transactions -/

/-- 30_encoding.md sections 6 and 8 (the notation of R94 is the spec's decision D36, the acknowledge rule D8): from SELECTED
with no registration active, the five samples of `OUTCMD c, p` for a parameter-out code that is not time-dependent run the
command of `c` once, on the latched code and parameter, and return to SELECTED with the acknowledge low and nothing
recorded. Time-dependent codes are left out; of the unrecognized codes those with bit 7 = 0 are meant. That the samples are
the first listed inputs is the model's choice (log 1, DESIGN CHOICE). -/
def Obligations.OutTransactionRunsTheCommandOnce : Prop :=
  ∀ (s : State) (c p : Byte) (dt : Time) (rest : List Input),
    s.config.admissible = true → s.protocolState = .selected → s.schedActive = false →
    commandIsParamOut c = true → commandIsTimeDependent s.config.codes c = false →
    s.inputs = (Transaction.outCmd c p).inputs dt ++ rest →
    ∃ u, exec (decode s.config.codes c)
        { s with
          inputs := rest
          cmd := c
          paramOut := p
          ackOut := false
          busDrive := false
          protocolState := .executeCommand
          previousPins := paramOutSample p } = .next u ∧
      Host.Core.run Sys2Proof.core 5 s =
        .next { u with protocolState := .selected, previousPins := Sample.default }

/-- 30_encoding.md sections 6 and 8 (D36, D8): from SELECTED with no registration active, the samples of `INCMD c` for a
response code that is not time-dependent put the command's response byte on the bus, acknowledged, after the fourth cycle,
and leave the machine SELECTED with the acknowledge low after the fifth. Of the device state after them only the status is
said. Time-dependent codes are left out; of the unrecognized codes those with bit 7 = 1 are meant. That the samples are the
first listed inputs is the model's choice (log 1, DESIGN CHOICE). -/
def Obligations.InTransactionDeliversTheResponse : Prop :=
  ∀ (s : State) (c : Byte) (dt : Time) (rest : List Input),
    s.config.admissible = true → s.protocolState = .selected → s.schedActive = false →
    commandIsParamOut c = false → commandIsTimeDependent s.config.codes c = false →
    s.inputs = (Transaction.inCmd c).inputs dt ++ rest →
    ∃ u t₄ t₅, exec (decode s.config.codes c)
        { s with
          inputs := ((Transaction.inCmd c).inputs dt).drop 3 ++ rest
          cmd := c
          ackOut := false
          busDrive := false
          protocolState := .executeCommand
          previousPins := commandSample c } = .next u ∧
      Host.Core.run Sys2Proof.core 4 s = .next t₄ ∧ drivenByte t₄ = some u.paramIn ∧ t₄.ackOut = true ∧
      t₄.protocolState = .selected ∧ t₄.generalStatus = u.generalStatus ∧
      Host.Core.run Sys2Proof.core 5 s = .next t₅ ∧ t₅.protocolState = .selected ∧ t₅.ackOut = false ∧
      t₅.inputs = rest ∧ t₅.modelFaults = s.modelFaults
end

