-- ==== Sys2Proof/Laws/Codec.lean ====
section
/-! SUPPORT. The lookup of a code in the opcode table, said once (30_encoding.md R86). -/

namespace Sys2Proof

/-- Everything the lookup can answer: the command of a row with that code, or an unrecognized code that no row has. -/
theorem lookupCode_cases (c : Byte) (rows : List (Byte × Instr)) :
    (c, lookupCode c rows) ∈ rows ∨ (lookupCode c rows = .unrecognized c ∧ ∀ r ∈ rows, r.1 ≠ c) := by
  induction rows with
  | nil => exact .inr ⟨rfl, by simp⟩
  | cons r rows ih =>
    obtain ⟨code, i⟩ := r
    unfold lookupCode
    split
    · rename_i h
      subst h
      exact .inl (by simp)
    · rename_i h
      rcases ih with ih | ⟨ih1, ih2⟩
      · exact .inl (by simp [ih])
      · refine .inr ⟨ih1, fun r hr => ?_⟩
        rcases List.mem_cons.mp hr with rfl | hr
        · exact fun hc => h hc.symm
        · exact ih2 r hr

/-- Where no two rows share a code, the lookup of a row's code is that row's command. -/
theorem lookupCode_of_mem {rows : List (Byte × Instr)} (hn : (rows.map Prod.fst).Nodup) {c : Byte} {i : Instr}
    (h : (c, i) ∈ rows) : lookupCode c rows = i := by
  induction rows with
  | nil => cases h
  | cons r rows ih =>
    obtain ⟨code, j⟩ := r
    simp only [List.map_cons, List.nodup_cons] at hn
    unfold lookupCode
    rcases List.mem_cons.mp h with h | h
    · cases h
      rw [if_pos rfl]
    · rw [if_neg, ih hn.2 h]
      intro hc
      exact hn.1 (List.mem_map.mpr ⟨(c, i), h, hc⟩)

/-- The codes of the table's rows, in the table's order, are the image of the map. -/
theorem CodeMap.rows_codes (m : CodeMap) : m.rows.map Prod.fst = m.codes := rfl

/-- An admissible map is injective (R84 constraint 1). -/
theorem CodeMap.admissible_nodup {m : CodeMap} (h : m.admissible = true) : m.codes.Nodup := by
  simp only [CodeMap.admissible, CodeMap.injective, Bool.and_eq_true, decide_eq_true_eq] at h
  exact h.1.1

end Sys2Proof
end

