-- ==== Sys2Proof/Laws/Memory.lean ====
section
/-! SUPPORT. The attribute table's memory: reading after writing, and every operation keeps the canonical form
(20_memory.md R60 to R62). -/

namespace Sys2Proof.Machine

@[simp] theorem Memory.read_nil (i : Nat) : Memory.read [] i = unlistedByte := rfl

theorem Memory.read_cons (a : Nat) (v : Byte) (m : Memory) (i : Nat) :
    Memory.read ((a, v) :: m) i = if a = i then v else Memory.read m i := rfl

/-- An index that no entry lists reads as an unlisted one. -/
theorem Memory.read_of_not_listed (m : Memory) (i : Nat) (h : ∀ c ∈ m, c.1 ≠ i) :
    Memory.read m i = unlistedByte := by
  induction m with
  | nil => rfl
  | cons c m ih =>
    obtain ⟨a, v⟩ := c
    rw [Memory.read_cons, if_neg (h (a, v) (by simp))]
    exact ih (fun c hc => h c (by simp [hc]))

theorem Memory.read_Memory_cons (i : Nat) (v : Byte) (m : Memory) (h : ∀ c ∈ m, c.1 ≠ i) (j : Nat) :
    Memory.read (Memory.cons i v m) j = if i = j then v else Memory.read m j := by
  unfold Memory.cons
  split
  · rename_i hv
    split
    · rename_i hij
      subst hij
      rw [Memory.read_of_not_listed m i h, hv]
    · rfl
  · rfl

theorem Memory.mem_cons {c : Host.Cell} {i : Nat} {v : Byte} {m : Memory} (h : c ∈ Memory.cons i v m) :
    (c = (i, v) ∧ v ≠ unlistedByte) ∨ c ∈ m := by
  unfold Memory.cons at h
  split at h
  · exact .inr h
  · rename_i hv
    rcases List.mem_cons.mp h with h | h
    · exact .inl ⟨h, hv⟩
    · exact .inr h

/-- What a write can leave in the list. -/
theorem Memory.mem_write {c : Host.Cell} {i : Nat} {v : Byte} {m : Memory} (h : c ∈ Memory.write m i v) :
    (c = (i, v) ∧ v ≠ unlistedByte) ∨ c ∈ m := by
  induction m with
  | nil => exact Memory.mem_cons h
  | cons d m ih =>
    obtain ⟨a, w⟩ := d
    unfold Memory.write at h
    split at h
    · exact Memory.mem_cons h
    · split at h
      · rcases Memory.mem_cons h with h | h
        · exact .inl h
        · exact .inr (by simp [h])
      · rcases List.mem_cons.mp h with h | h
        · exact .inr (by simp [h])
        · rcases ih h with h | h
          · exact .inl h
          · exact .inr (by simp [h])

theorem Memory.cons_wf {i : Nat} {v : Byte} {m : Memory} (hi : i < attributeTableSize) (hm : Memory.wf m)
    (h : ∀ c ∈ m, i < c.1) : Memory.wf (Memory.cons i v m) := by
  refine ⟨?_, fun c hc => ?_⟩
  · unfold Memory.cons
    split
    · exact hm.1
    · exact List.pairwise_cons.mpr ⟨h, hm.1⟩
  · rcases Memory.mem_cons hc with ⟨rfl, hv⟩ | hc
    · exact ⟨hi, hv⟩
    · exact hm.2 c hc

/-- A write inside the table keeps the canonical form. -/
theorem Memory.write_wf {i : Nat} {v : Byte} {m : Memory} (hi : i < attributeTableSize) (hm : Memory.wf m) :
    Memory.wf (Memory.write m i v) := by
  refine ⟨?_, fun c hc => ?_⟩
  · have hp := hm.1
    clear hm
    induction m with
    | nil => unfold Memory.write Memory.cons; split <;> simp
    | cons d m ih =>
      obtain ⟨a, w⟩ := d
      obtain ⟨h1, h2⟩ := List.pairwise_cons.mp hp
      unfold Memory.write
      split
      · rename_i hlt
        unfold Memory.cons
        split
        · exact hp
        · refine List.pairwise_cons.mpr ⟨fun c hc => ?_, hp⟩
          rcases List.mem_cons.mp hc with rfl | hc
          · exact hlt
          · exact lt_trans hlt (h1 c hc)
      · split
        · rename_i hia
          subst hia
          unfold Memory.cons
          split
          · exact h2
          · exact List.pairwise_cons.mpr ⟨h1, h2⟩
        · rename_i h3 h4
          refine List.pairwise_cons.mpr ⟨fun c hc => ?_, ih h2⟩
          rcases Memory.mem_write hc with ⟨rfl, -⟩ | hc
          · simp only; omega
          · exact h1 c hc
  · rcases Memory.mem_write hc with ⟨rfl, hv⟩ | hc
    · exact ⟨hi, hv⟩
    · exact hm.2 c hc

/-- Reading after a write: the written index reads the value, every other index reads as before. -/
theorem Memory.read_write (m : Memory) (hm : Memory.wf m) (i : Nat) (v : Byte) (j : Nat) :
    Memory.read (Memory.write m i v) j = if i = j then v else Memory.read m j := by
  have hp := hm.1
  clear hm
  induction m with
  | nil => exact Memory.read_Memory_cons i v [] (by simp) j
  | cons d m ih =>
    obtain ⟨a, w⟩ := d
    obtain ⟨h1, h2⟩ := List.pairwise_cons.mp hp
    unfold Memory.write
    split
    · rename_i hlt
      refine Memory.read_Memory_cons i v _ (fun c hc => ?_) j
      rcases List.mem_cons.mp hc with rfl | hc
      · simp only; omega
      · have := h1 c hc; simp only at this; omega
    · split
      · rename_i hia
        subst hia
        rw [Memory.read_Memory_cons i v m (fun c hc => by have := h1 c hc; simp only at this; omega), Memory.read_cons]
        split <;> rfl
      · rename_i hne
        rw [Memory.read_cons, Memory.read_cons, ih h2]
        split
        · rename_i haj
          rw [if_neg (by omega)]
        · rfl

/-- The list `ofTable` builds from the indices `l`. -/
theorem Memory.ofTable_aux (f : Fin attributeTableSize → Byte) (l : List (Fin attributeTableSize))
    (hl : l.Pairwise (· < ·)) :
    Memory.wf (l.foldr (fun i m => Memory.cons i.val (f i) m) []) ∧
      (∀ c ∈ l.foldr (fun i m => Memory.cons i.val (f i) m) [], ∃ i ∈ l, c.1 = i.val) ∧
      ∀ j : Fin attributeTableSize, j ∈ l →
        Memory.read (l.foldr (fun i m => Memory.cons i.val (f i) m) []) j.val = f j := by
  induction l with
  | nil => simp [Memory.wf]
  | cons i l ih =>
    obtain ⟨h1, h2⟩ := List.pairwise_cons.mp hl
    obtain ⟨hw, hm, hr⟩ := ih h2
    simp only [List.foldr_cons]
    refine ⟨Memory.cons_wf i.isLt hw (fun c hc => ?_), fun c hc => ?_, fun j hj => ?_⟩
    · obtain ⟨k, hk, hck⟩ := hm c hc
      rw [hck]
      exact h1 k hk
    · rcases Memory.mem_cons hc with ⟨rfl, -⟩ | hc
      · exact ⟨i, by simp, rfl⟩
      · obtain ⟨k, hk, hck⟩ := hm c hc
        exact ⟨k, by simp [hk], hck⟩
    · rw [Memory.read_Memory_cons]
      · split
        · rename_i hij
          rw [Fin.val_injective hij]
        · rename_i hij
          rcases List.mem_cons.mp hj with rfl | hj
          · exact absurd rfl hij
          · exact hr j hj
      · intro c hc
        obtain ⟨k, hk, hck⟩ := hm c hc
        have := h1 k hk
        rw [hck]
        exact (Nat.ne_of_lt this).symm

/-- The table built from a function is canonical. -/
theorem Memory.ofTable_wf (f : Fin attributeTableSize → Byte) : Memory.wf (Memory.ofTable f) :=
  (Memory.ofTable_aux f _ (List.pairwise_lt_finRange _)).1

/-- The table built from a function reads as the function. -/
theorem Memory.read_ofTable (f : Fin attributeTableSize → Byte) (i : Fin attributeTableSize) :
    Memory.read (Memory.ofTable f) i.val = f i :=
  (Memory.ofTable_aux f _ (List.pairwise_lt_finRange _)).2.2 i (List.mem_finRange i)

/-- Nothing outside the table is ever listed, so it reads as unlisted. -/
theorem Memory.read_outside {m : Memory} (hm : Memory.wf m) {i : Nat} (hi : attributeTableSize ≤ i) :
    Memory.read m i = unlistedByte :=
  Memory.read_of_not_listed m i (fun c hc => Nat.ne_of_lt (Nat.lt_of_lt_of_le (hm.2 c hc).1 hi))

/-- Two canonical tables that read alike at every index are equal. -/
theorem Memory.ext_of_read {m m' : Memory} (hm : Memory.wf m) (hm' : Memory.wf m')
    (h : ∀ i, Memory.read m i = Memory.read m' i) : m = m' := by
  induction m generalizing m' with
  | nil =>
    cases m' with
    | nil => rfl
    | cons d m' =>
      obtain ⟨a, w⟩ := d
      have h0 := h a
      rw [Memory.read_cons, if_pos rfl] at h0
      exact absurd h0.symm (hm'.2 (a, w) (by simp)).2
  | cons d m ih =>
    obtain ⟨a, w⟩ := d
    have hw : w ≠ unlistedByte := (hm.2 (a, w) (by simp)).2
    have ha := h a
    rw [Memory.read_cons, if_pos rfl] at ha
    cases m' with
    | nil => exact absurd ha hw
    | cons d' m' =>
      obtain ⟨b, x⟩ := d'
      have hx : x ≠ unlistedByte := (hm'.2 (b, x) (by simp)).2
      have p1 := List.pairwise_cons.mp hm.1
      have p2 := List.pairwise_cons.mp hm'.1
      have hb := h b
      rw [Memory.read_cons (b) x, if_pos rfl] at hb
      have hab : a = b := by
        rcases Nat.lt_trichotomy a b with hlt | heq | hgt
        · rw [Memory.read_cons, if_neg (by omega),
            Memory.read_of_not_listed m' a (fun c hc => by have := p2.1 c hc; simp only at this; omega)] at ha
          exact absurd ha hw
        · exact heq
        · rw [Memory.read_cons, if_neg (by omega),
            Memory.read_of_not_listed m b (fun c hc => by have := p1.1 c hc; simp only at this; omega)] at hb
          exact absurd hb.symm hx
      subst hab
      rw [Memory.read_cons, if_pos rfl] at ha
      subst ha
      have hrest : m = m' := by
        refine ih ⟨p1.2, fun c hc => hm.2 c (by simp [hc])⟩ ⟨p2.2, fun c hc => hm'.2 c (by simp [hc])⟩ (fun i => ?_)
        have hi := h i
        rw [Memory.read_cons, Memory.read_cons] at hi
        by_cases hia : a = i
        · subst hia
          rw [Memory.read_of_not_listed m a (fun c hc => (Nat.ne_of_lt (p1.1 c hc)).symm),
            Memory.read_of_not_listed m' a (fun c hc => (Nat.ne_of_lt (p2.1 c hc)).symm)]
        · rwa [if_neg hia, if_neg hia] at hi
      rw [hrest]

end Sys2Proof.Machine
end

