-- ==== Sys2Proof/Laws/State.lean ====
section
/-! SUPPORT. What each named update of the state leaves and writes, field by field (generated from the field list of
Machine/State.lean): no later proof unfolds a record update. -/

namespace Sys2Proof.Machine

/-! `respond` -/

@[simp] theorem respond_config (v : Byte) (s : State) : (respond v s).config = s.config := rfl
@[simp] theorem respond_inputs (v : Byte) (s : State) : (respond v s).inputs = s.inputs := rfl
@[simp] theorem respond_draws (v : Byte) (s : State) : (respond v s).draws = s.draws := rfl
@[simp] theorem respond_id (v : Byte) (s : State) : (respond v s).id = s.id := rfl
@[simp] theorem respond_protocolState (v : Byte) (s : State) : (respond v s).protocolState = s.protocolState := rfl
@[simp] theorem respond_previousPins (v : Byte) (s : State) : (respond v s).previousPins = s.previousPins := rfl
@[simp] theorem respond_cmd (v : Byte) (s : State) : (respond v s).cmd = s.cmd := rfl
@[simp] theorem respond_paramOut (v : Byte) (s : State) : (respond v s).paramOut = s.paramOut := rfl
@[simp] theorem respond_paramIn (v : Byte) (s : State) : (respond v s).paramIn = v := rfl
@[simp] theorem respond_generalStatus (v : Byte) (s : State) : (respond v s).generalStatus = s.generalStatus := rfl
@[simp] theorem respond_senseByte1 (v : Byte) (s : State) : (respond v s).senseByte1 = s.senseByte1 := rfl
@[simp] theorem respond_senseByte2 (v : Byte) (s : State) : (respond v s).senseByte2 = s.senseByte2 := rfl
@[simp] theorem respond_attentionPending (v : Byte) (s : State) : (respond v s).attentionPending = s.attentionPending := rfl
@[simp] theorem respond_attentionEnabled (v : Byte) (s : State) : (respond v s).attentionEnabled = s.attentionEnabled := rfl
@[simp] theorem respond_writeEnabled (v : Byte) (s : State) : (respond v s).writeEnabled = s.writeEnabled := rfl
@[simp] theorem respond_selectedHead (v : Byte) (s : State) : (respond v s).selectedHead = s.selectedHead := rfl
@[simp] theorem respond_currentCylinderHigh (v : Byte) (s : State) : (respond v s).currentCylinderHigh = s.currentCylinderHigh := rfl
@[simp] theorem respond_currentCylinderLow (v : Byte) (s : State) : (respond v s).currentCylinderLow = s.currentCylinderLow := rfl
@[simp] theorem respond_loadCylinderHigh (v : Byte) (s : State) : (respond v s).loadCylinderHigh = s.loadCylinderHigh := rfl
@[simp] theorem respond_loadCylinderLow (v : Byte) (s : State) : (respond v s).loadCylinderLow = s.loadCylinderLow := rfl
@[simp] theorem respond_testByte (v : Byte) (s : State) : (respond v s).testByte = s.testByte := rfl
@[simp] theorem respond_attributeNumber (v : Byte) (s : State) : (respond v s).attributeNumber = s.attributeNumber := rfl
@[simp] theorem respond_attributes (v : Byte) (s : State) : (respond v s).attributes = s.attributes := rfl
@[simp] theorem respond_attributesInitialized (v : Byte) (s : State) : (respond v s).attributesInitialized = s.attributesInitialized := rfl
@[simp] theorem respond_schedActive (v : Byte) (s : State) : (respond v s).schedActive = s.schedActive := rfl
@[simp] theorem respond_schedDuration (v : Byte) (s : State) : (respond v s).schedDuration = s.schedDuration := rfl
@[simp] theorem respond_schedElapsed (v : Byte) (s : State) : (respond v s).schedElapsed = s.schedElapsed := rfl
@[simp] theorem respond_schedAction (v : Byte) (s : State) : (respond v s).schedAction = s.schedAction := rfl
@[simp] theorem respond_ackOut (v : Byte) (s : State) : (respond v s).ackOut = s.ackOut := rfl
@[simp] theorem respond_busyOut (v : Byte) (s : State) : (respond v s).busyOut = s.busyOut := rfl
@[simp] theorem respond_busOut (v : Byte) (s : State) : (respond v s).busOut = s.busOut := rfl
@[simp] theorem respond_busDrive (v : Byte) (s : State) : (respond v s).busDrive = s.busDrive := rfl
@[simp] theorem respond_modelFaults (v : Byte) (s : State) : (respond v s).modelFaults = s.modelFaults := rfl
@[simp] theorem respond_refusalMark (v : Byte) (s : State) : (respond v s).refusalMark = s.refusalMark := rfl

/-! `respondStatus` -/

@[simp] theorem respondStatus_config (s : State) : (respondStatus s).config = s.config := rfl
@[simp] theorem respondStatus_inputs (s : State) : (respondStatus s).inputs = s.inputs := rfl
@[simp] theorem respondStatus_draws (s : State) : (respondStatus s).draws = s.draws := rfl
@[simp] theorem respondStatus_id (s : State) : (respondStatus s).id = s.id := rfl
@[simp] theorem respondStatus_protocolState (s : State) : (respondStatus s).protocolState = s.protocolState := rfl
@[simp] theorem respondStatus_previousPins (s : State) : (respondStatus s).previousPins = s.previousPins := rfl
@[simp] theorem respondStatus_cmd (s : State) : (respondStatus s).cmd = s.cmd := rfl
@[simp] theorem respondStatus_paramOut (s : State) : (respondStatus s).paramOut = s.paramOut := rfl
@[simp] theorem respondStatus_paramIn (s : State) : (respondStatus s).paramIn = s.generalStatus := rfl
@[simp] theorem respondStatus_generalStatus (s : State) : (respondStatus s).generalStatus = s.generalStatus := rfl
@[simp] theorem respondStatus_senseByte1 (s : State) : (respondStatus s).senseByte1 = s.senseByte1 := rfl
@[simp] theorem respondStatus_senseByte2 (s : State) : (respondStatus s).senseByte2 = s.senseByte2 := rfl
@[simp] theorem respondStatus_attentionPending (s : State) : (respondStatus s).attentionPending = s.attentionPending := rfl
@[simp] theorem respondStatus_attentionEnabled (s : State) : (respondStatus s).attentionEnabled = s.attentionEnabled := rfl
@[simp] theorem respondStatus_writeEnabled (s : State) : (respondStatus s).writeEnabled = s.writeEnabled := rfl
@[simp] theorem respondStatus_selectedHead (s : State) : (respondStatus s).selectedHead = s.selectedHead := rfl
@[simp] theorem respondStatus_currentCylinderHigh (s : State) : (respondStatus s).currentCylinderHigh = s.currentCylinderHigh := rfl
@[simp] theorem respondStatus_currentCylinderLow (s : State) : (respondStatus s).currentCylinderLow = s.currentCylinderLow := rfl
@[simp] theorem respondStatus_loadCylinderHigh (s : State) : (respondStatus s).loadCylinderHigh = s.loadCylinderHigh := rfl
@[simp] theorem respondStatus_loadCylinderLow (s : State) : (respondStatus s).loadCylinderLow = s.loadCylinderLow := rfl
@[simp] theorem respondStatus_testByte (s : State) : (respondStatus s).testByte = s.testByte := rfl
@[simp] theorem respondStatus_attributeNumber (s : State) : (respondStatus s).attributeNumber = s.attributeNumber := rfl
@[simp] theorem respondStatus_attributes (s : State) : (respondStatus s).attributes = s.attributes := rfl
@[simp] theorem respondStatus_attributesInitialized (s : State) : (respondStatus s).attributesInitialized = s.attributesInitialized := rfl
@[simp] theorem respondStatus_schedActive (s : State) : (respondStatus s).schedActive = s.schedActive := rfl
@[simp] theorem respondStatus_schedDuration (s : State) : (respondStatus s).schedDuration = s.schedDuration := rfl
@[simp] theorem respondStatus_schedElapsed (s : State) : (respondStatus s).schedElapsed = s.schedElapsed := rfl
@[simp] theorem respondStatus_schedAction (s : State) : (respondStatus s).schedAction = s.schedAction := rfl
@[simp] theorem respondStatus_ackOut (s : State) : (respondStatus s).ackOut = s.ackOut := rfl
@[simp] theorem respondStatus_busyOut (s : State) : (respondStatus s).busyOut = s.busyOut := rfl
@[simp] theorem respondStatus_busOut (s : State) : (respondStatus s).busOut = s.busOut := rfl
@[simp] theorem respondStatus_busDrive (s : State) : (respondStatus s).busDrive = s.busDrive := rfl
@[simp] theorem respondStatus_modelFaults (s : State) : (respondStatus s).modelFaults = s.modelFaults := rfl
@[simp] theorem respondStatus_refusalMark (s : State) : (respondStatus s).refusalMark = s.refusalMark := rfl

/-! `raiseIllegalParameter` -/

@[simp] theorem raiseIllegalParameter_config (s : State) : (raiseIllegalParameter s).config = s.config := rfl
@[simp] theorem raiseIllegalParameter_inputs (s : State) : (raiseIllegalParameter s).inputs = s.inputs := rfl
@[simp] theorem raiseIllegalParameter_draws (s : State) : (raiseIllegalParameter s).draws = s.draws := rfl
@[simp] theorem raiseIllegalParameter_id (s : State) : (raiseIllegalParameter s).id = s.id := rfl
@[simp] theorem raiseIllegalParameter_protocolState (s : State) : (raiseIllegalParameter s).protocolState = s.protocolState := rfl
@[simp] theorem raiseIllegalParameter_previousPins (s : State) : (raiseIllegalParameter s).previousPins = s.previousPins := rfl
@[simp] theorem raiseIllegalParameter_cmd (s : State) : (raiseIllegalParameter s).cmd = s.cmd := rfl
@[simp] theorem raiseIllegalParameter_paramOut (s : State) : (raiseIllegalParameter s).paramOut = s.paramOut := rfl
@[simp] theorem raiseIllegalParameter_paramIn (s : State) : (raiseIllegalParameter s).paramIn = s.paramIn := rfl
@[simp] theorem raiseIllegalParameter_generalStatus (s : State) : (raiseIllegalParameter s).generalStatus = setBits s.generalStatus illegalParameterMask := rfl
@[simp] theorem raiseIllegalParameter_senseByte1 (s : State) : (raiseIllegalParameter s).senseByte1 = s.senseByte1 := rfl
@[simp] theorem raiseIllegalParameter_senseByte2 (s : State) : (raiseIllegalParameter s).senseByte2 = s.senseByte2 := rfl
@[simp] theorem raiseIllegalParameter_attentionPending (s : State) : (raiseIllegalParameter s).attentionPending = true := rfl
@[simp] theorem raiseIllegalParameter_attentionEnabled (s : State) : (raiseIllegalParameter s).attentionEnabled = s.attentionEnabled := rfl
@[simp] theorem raiseIllegalParameter_writeEnabled (s : State) : (raiseIllegalParameter s).writeEnabled = s.writeEnabled := rfl
@[simp] theorem raiseIllegalParameter_selectedHead (s : State) : (raiseIllegalParameter s).selectedHead = s.selectedHead := rfl
@[simp] theorem raiseIllegalParameter_currentCylinderHigh (s : State) : (raiseIllegalParameter s).currentCylinderHigh = s.currentCylinderHigh := rfl
@[simp] theorem raiseIllegalParameter_currentCylinderLow (s : State) : (raiseIllegalParameter s).currentCylinderLow = s.currentCylinderLow := rfl
@[simp] theorem raiseIllegalParameter_loadCylinderHigh (s : State) : (raiseIllegalParameter s).loadCylinderHigh = s.loadCylinderHigh := rfl
@[simp] theorem raiseIllegalParameter_loadCylinderLow (s : State) : (raiseIllegalParameter s).loadCylinderLow = s.loadCylinderLow := rfl
@[simp] theorem raiseIllegalParameter_testByte (s : State) : (raiseIllegalParameter s).testByte = s.testByte := rfl
@[simp] theorem raiseIllegalParameter_attributeNumber (s : State) : (raiseIllegalParameter s).attributeNumber = s.attributeNumber := rfl
@[simp] theorem raiseIllegalParameter_attributes (s : State) : (raiseIllegalParameter s).attributes = s.attributes := rfl
@[simp] theorem raiseIllegalParameter_attributesInitialized (s : State) : (raiseIllegalParameter s).attributesInitialized = s.attributesInitialized := rfl
@[simp] theorem raiseIllegalParameter_schedActive (s : State) : (raiseIllegalParameter s).schedActive = s.schedActive := rfl
@[simp] theorem raiseIllegalParameter_schedDuration (s : State) : (raiseIllegalParameter s).schedDuration = s.schedDuration := rfl
@[simp] theorem raiseIllegalParameter_schedElapsed (s : State) : (raiseIllegalParameter s).schedElapsed = s.schedElapsed := rfl
@[simp] theorem raiseIllegalParameter_schedAction (s : State) : (raiseIllegalParameter s).schedAction = s.schedAction := rfl
@[simp] theorem raiseIllegalParameter_ackOut (s : State) : (raiseIllegalParameter s).ackOut = s.ackOut := rfl
@[simp] theorem raiseIllegalParameter_busyOut (s : State) : (raiseIllegalParameter s).busyOut = s.busyOut := rfl
@[simp] theorem raiseIllegalParameter_busOut (s : State) : (raiseIllegalParameter s).busOut = s.busOut := rfl
@[simp] theorem raiseIllegalParameter_busDrive (s : State) : (raiseIllegalParameter s).busDrive = s.busDrive := rfl
@[simp] theorem raiseIllegalParameter_modelFaults (s : State) : (raiseIllegalParameter s).modelFaults = s.modelFaults := rfl
@[simp] theorem raiseIllegalParameter_refusalMark (s : State) : (raiseIllegalParameter s).refusalMark = s.refusalMark := rfl

/-! `raiseIllegalCommand` -/

@[simp] theorem raiseIllegalCommand_config (s : State) : (raiseIllegalCommand s).config = s.config := rfl
@[simp] theorem raiseIllegalCommand_inputs (s : State) : (raiseIllegalCommand s).inputs = s.inputs := rfl
@[simp] theorem raiseIllegalCommand_draws (s : State) : (raiseIllegalCommand s).draws = s.draws := rfl
@[simp] theorem raiseIllegalCommand_id (s : State) : (raiseIllegalCommand s).id = s.id := rfl
@[simp] theorem raiseIllegalCommand_protocolState (s : State) : (raiseIllegalCommand s).protocolState = s.protocolState := rfl
@[simp] theorem raiseIllegalCommand_previousPins (s : State) : (raiseIllegalCommand s).previousPins = s.previousPins := rfl
@[simp] theorem raiseIllegalCommand_cmd (s : State) : (raiseIllegalCommand s).cmd = s.cmd := rfl
@[simp] theorem raiseIllegalCommand_paramOut (s : State) : (raiseIllegalCommand s).paramOut = s.paramOut := rfl
@[simp] theorem raiseIllegalCommand_paramIn (s : State) : (raiseIllegalCommand s).paramIn = s.paramIn := rfl
@[simp] theorem raiseIllegalCommand_generalStatus (s : State) : (raiseIllegalCommand s).generalStatus = setBits s.generalStatus illegalCommandMask := rfl
@[simp] theorem raiseIllegalCommand_senseByte1 (s : State) : (raiseIllegalCommand s).senseByte1 = s.senseByte1 := rfl
@[simp] theorem raiseIllegalCommand_senseByte2 (s : State) : (raiseIllegalCommand s).senseByte2 = s.senseByte2 := rfl
@[simp] theorem raiseIllegalCommand_attentionPending (s : State) : (raiseIllegalCommand s).attentionPending = s.attentionPending := rfl
@[simp] theorem raiseIllegalCommand_attentionEnabled (s : State) : (raiseIllegalCommand s).attentionEnabled = s.attentionEnabled := rfl
@[simp] theorem raiseIllegalCommand_writeEnabled (s : State) : (raiseIllegalCommand s).writeEnabled = s.writeEnabled := rfl
@[simp] theorem raiseIllegalCommand_selectedHead (s : State) : (raiseIllegalCommand s).selectedHead = s.selectedHead := rfl
@[simp] theorem raiseIllegalCommand_currentCylinderHigh (s : State) : (raiseIllegalCommand s).currentCylinderHigh = s.currentCylinderHigh := rfl
@[simp] theorem raiseIllegalCommand_currentCylinderLow (s : State) : (raiseIllegalCommand s).currentCylinderLow = s.currentCylinderLow := rfl
@[simp] theorem raiseIllegalCommand_loadCylinderHigh (s : State) : (raiseIllegalCommand s).loadCylinderHigh = s.loadCylinderHigh := rfl
@[simp] theorem raiseIllegalCommand_loadCylinderLow (s : State) : (raiseIllegalCommand s).loadCylinderLow = s.loadCylinderLow := rfl
@[simp] theorem raiseIllegalCommand_testByte (s : State) : (raiseIllegalCommand s).testByte = s.testByte := rfl
@[simp] theorem raiseIllegalCommand_attributeNumber (s : State) : (raiseIllegalCommand s).attributeNumber = s.attributeNumber := rfl
@[simp] theorem raiseIllegalCommand_attributes (s : State) : (raiseIllegalCommand s).attributes = s.attributes := rfl
@[simp] theorem raiseIllegalCommand_attributesInitialized (s : State) : (raiseIllegalCommand s).attributesInitialized = s.attributesInitialized := rfl
@[simp] theorem raiseIllegalCommand_schedActive (s : State) : (raiseIllegalCommand s).schedActive = s.schedActive := rfl
@[simp] theorem raiseIllegalCommand_schedDuration (s : State) : (raiseIllegalCommand s).schedDuration = s.schedDuration := rfl
@[simp] theorem raiseIllegalCommand_schedElapsed (s : State) : (raiseIllegalCommand s).schedElapsed = s.schedElapsed := rfl
@[simp] theorem raiseIllegalCommand_schedAction (s : State) : (raiseIllegalCommand s).schedAction = s.schedAction := rfl
@[simp] theorem raiseIllegalCommand_ackOut (s : State) : (raiseIllegalCommand s).ackOut = s.ackOut := rfl
@[simp] theorem raiseIllegalCommand_busyOut (s : State) : (raiseIllegalCommand s).busyOut = s.busyOut := rfl
@[simp] theorem raiseIllegalCommand_busOut (s : State) : (raiseIllegalCommand s).busOut = s.busOut := rfl
@[simp] theorem raiseIllegalCommand_busDrive (s : State) : (raiseIllegalCommand s).busDrive = s.busDrive := rfl
@[simp] theorem raiseIllegalCommand_modelFaults (s : State) : (raiseIllegalCommand s).modelFaults = s.modelFaults := rfl
@[simp] theorem raiseIllegalCommand_refusalMark (s : State) : (raiseIllegalCommand s).refusalMark = s.refusalMark := rfl

/-! `recordFault` -/

@[simp] theorem recordFault_config (r : Fault) (s : State) : (recordFault r s).config = s.config := by unfold recordFault; split <;> rfl
@[simp] theorem recordFault_inputs (r : Fault) (s : State) : (recordFault r s).inputs = s.inputs := by unfold recordFault; split <;> rfl
@[simp] theorem recordFault_draws (r : Fault) (s : State) : (recordFault r s).draws = s.draws := by unfold recordFault; split <;> rfl
@[simp] theorem recordFault_id (r : Fault) (s : State) : (recordFault r s).id = s.id := by unfold recordFault; split <;> rfl
@[simp] theorem recordFault_protocolState (r : Fault) (s : State) : (recordFault r s).protocolState = s.protocolState := by unfold recordFault; split <;> rfl
@[simp] theorem recordFault_previousPins (r : Fault) (s : State) : (recordFault r s).previousPins = s.previousPins := by unfold recordFault; split <;> rfl
@[simp] theorem recordFault_cmd (r : Fault) (s : State) : (recordFault r s).cmd = s.cmd := by unfold recordFault; split <;> rfl
@[simp] theorem recordFault_paramOut (r : Fault) (s : State) : (recordFault r s).paramOut = s.paramOut := by unfold recordFault; split <;> rfl
@[simp] theorem recordFault_paramIn (r : Fault) (s : State) : (recordFault r s).paramIn = s.paramIn := by unfold recordFault; split <;> rfl
@[simp] theorem recordFault_generalStatus (r : Fault) (s : State) : (recordFault r s).generalStatus = s.generalStatus := by unfold recordFault; split <;> rfl
@[simp] theorem recordFault_senseByte1 (r : Fault) (s : State) : (recordFault r s).senseByte1 = s.senseByte1 := by unfold recordFault; split <;> rfl
@[simp] theorem recordFault_senseByte2 (r : Fault) (s : State) : (recordFault r s).senseByte2 = s.senseByte2 := by unfold recordFault; split <;> rfl
@[simp] theorem recordFault_attentionPending (r : Fault) (s : State) : (recordFault r s).attentionPending = s.attentionPending := by unfold recordFault; split <;> rfl
@[simp] theorem recordFault_attentionEnabled (r : Fault) (s : State) : (recordFault r s).attentionEnabled = s.attentionEnabled := by unfold recordFault; split <;> rfl
@[simp] theorem recordFault_writeEnabled (r : Fault) (s : State) : (recordFault r s).writeEnabled = s.writeEnabled := by unfold recordFault; split <;> rfl
@[simp] theorem recordFault_selectedHead (r : Fault) (s : State) : (recordFault r s).selectedHead = s.selectedHead := by unfold recordFault; split <;> rfl
@[simp] theorem recordFault_currentCylinderHigh (r : Fault) (s : State) : (recordFault r s).currentCylinderHigh = s.currentCylinderHigh := by unfold recordFault; split <;> rfl
@[simp] theorem recordFault_currentCylinderLow (r : Fault) (s : State) : (recordFault r s).currentCylinderLow = s.currentCylinderLow := by unfold recordFault; split <;> rfl
@[simp] theorem recordFault_loadCylinderHigh (r : Fault) (s : State) : (recordFault r s).loadCylinderHigh = s.loadCylinderHigh := by unfold recordFault; split <;> rfl
@[simp] theorem recordFault_loadCylinderLow (r : Fault) (s : State) : (recordFault r s).loadCylinderLow = s.loadCylinderLow := by unfold recordFault; split <;> rfl
@[simp] theorem recordFault_testByte (r : Fault) (s : State) : (recordFault r s).testByte = s.testByte := by unfold recordFault; split <;> rfl
@[simp] theorem recordFault_attributeNumber (r : Fault) (s : State) : (recordFault r s).attributeNumber = s.attributeNumber := by unfold recordFault; split <;> rfl
@[simp] theorem recordFault_attributes (r : Fault) (s : State) : (recordFault r s).attributes = s.attributes := by unfold recordFault; split <;> rfl
@[simp] theorem recordFault_attributesInitialized (r : Fault) (s : State) : (recordFault r s).attributesInitialized = s.attributesInitialized := by unfold recordFault; split <;> rfl
@[simp] theorem recordFault_schedActive (r : Fault) (s : State) : (recordFault r s).schedActive = s.schedActive := by unfold recordFault; split <;> rfl
@[simp] theorem recordFault_schedDuration (r : Fault) (s : State) : (recordFault r s).schedDuration = s.schedDuration := by unfold recordFault; split <;> rfl
@[simp] theorem recordFault_schedElapsed (r : Fault) (s : State) : (recordFault r s).schedElapsed = s.schedElapsed := by unfold recordFault; split <;> rfl
@[simp] theorem recordFault_schedAction (r : Fault) (s : State) : (recordFault r s).schedAction = s.schedAction := by unfold recordFault; split <;> rfl
@[simp] theorem recordFault_ackOut (r : Fault) (s : State) : (recordFault r s).ackOut = s.ackOut := by unfold recordFault; split <;> rfl
@[simp] theorem recordFault_busyOut (r : Fault) (s : State) : (recordFault r s).busyOut = s.busyOut := by unfold recordFault; split <;> rfl
@[simp] theorem recordFault_busOut (r : Fault) (s : State) : (recordFault r s).busOut = s.busOut := by unfold recordFault; split <;> rfl
@[simp] theorem recordFault_busDrive (r : Fault) (s : State) : (recordFault r s).busDrive = s.busDrive := by unfold recordFault; split <;> rfl
@[simp] theorem recordFault_refusalMark (r : Fault) (s : State) : (recordFault r s).refusalMark = s.refusalMark := by unfold recordFault; split <;> rfl

/-! `attrEnsureInit` -/

@[simp] theorem attrEnsureInit_config (s : State) : (attrEnsureInit s).config = s.config := by unfold attrEnsureInit; split <;> rfl
@[simp] theorem attrEnsureInit_inputs (s : State) : (attrEnsureInit s).inputs = s.inputs := by unfold attrEnsureInit; split <;> rfl
@[simp] theorem attrEnsureInit_draws (s : State) : (attrEnsureInit s).draws = s.draws := by unfold attrEnsureInit; split <;> rfl
@[simp] theorem attrEnsureInit_id (s : State) : (attrEnsureInit s).id = s.id := by unfold attrEnsureInit; split <;> rfl
@[simp] theorem attrEnsureInit_protocolState (s : State) : (attrEnsureInit s).protocolState = s.protocolState := by unfold attrEnsureInit; split <;> rfl
@[simp] theorem attrEnsureInit_previousPins (s : State) : (attrEnsureInit s).previousPins = s.previousPins := by unfold attrEnsureInit; split <;> rfl
@[simp] theorem attrEnsureInit_cmd (s : State) : (attrEnsureInit s).cmd = s.cmd := by unfold attrEnsureInit; split <;> rfl
@[simp] theorem attrEnsureInit_paramOut (s : State) : (attrEnsureInit s).paramOut = s.paramOut := by unfold attrEnsureInit; split <;> rfl
@[simp] theorem attrEnsureInit_paramIn (s : State) : (attrEnsureInit s).paramIn = s.paramIn := by unfold attrEnsureInit; split <;> rfl
@[simp] theorem attrEnsureInit_generalStatus (s : State) : (attrEnsureInit s).generalStatus = s.generalStatus := by unfold attrEnsureInit; split <;> rfl
@[simp] theorem attrEnsureInit_senseByte1 (s : State) : (attrEnsureInit s).senseByte1 = s.senseByte1 := by unfold attrEnsureInit; split <;> rfl
@[simp] theorem attrEnsureInit_senseByte2 (s : State) : (attrEnsureInit s).senseByte2 = s.senseByte2 := by unfold attrEnsureInit; split <;> rfl
@[simp] theorem attrEnsureInit_attentionPending (s : State) : (attrEnsureInit s).attentionPending = s.attentionPending := by unfold attrEnsureInit; split <;> rfl
@[simp] theorem attrEnsureInit_attentionEnabled (s : State) : (attrEnsureInit s).attentionEnabled = s.attentionEnabled := by unfold attrEnsureInit; split <;> rfl
@[simp] theorem attrEnsureInit_writeEnabled (s : State) : (attrEnsureInit s).writeEnabled = s.writeEnabled := by unfold attrEnsureInit; split <;> rfl
@[simp] theorem attrEnsureInit_selectedHead (s : State) : (attrEnsureInit s).selectedHead = s.selectedHead := by unfold attrEnsureInit; split <;> rfl
@[simp] theorem attrEnsureInit_currentCylinderHigh (s : State) : (attrEnsureInit s).currentCylinderHigh = s.currentCylinderHigh := by unfold attrEnsureInit; split <;> rfl
@[simp] theorem attrEnsureInit_currentCylinderLow (s : State) : (attrEnsureInit s).currentCylinderLow = s.currentCylinderLow := by unfold attrEnsureInit; split <;> rfl
@[simp] theorem attrEnsureInit_loadCylinderHigh (s : State) : (attrEnsureInit s).loadCylinderHigh = s.loadCylinderHigh := by unfold attrEnsureInit; split <;> rfl
@[simp] theorem attrEnsureInit_loadCylinderLow (s : State) : (attrEnsureInit s).loadCylinderLow = s.loadCylinderLow := by unfold attrEnsureInit; split <;> rfl
@[simp] theorem attrEnsureInit_testByte (s : State) : (attrEnsureInit s).testByte = s.testByte := by unfold attrEnsureInit; split <;> rfl
@[simp] theorem attrEnsureInit_attributeNumber (s : State) : (attrEnsureInit s).attributeNumber = s.attributeNumber := by unfold attrEnsureInit; split <;> rfl
@[simp] theorem attrEnsureInit_attributes (s : State) : (attrEnsureInit s).attributes = if s.attributesInitialized then s.attributes else Memory.ofTable (Config.attrInit s.config.geometry) := by unfold attrEnsureInit; split <;> rfl
@[simp] theorem attrEnsureInit_attributesInitialized (s : State) : (attrEnsureInit s).attributesInitialized = true := by unfold attrEnsureInit; split <;> simp_all
@[simp] theorem attrEnsureInit_schedActive (s : State) : (attrEnsureInit s).schedActive = s.schedActive := by unfold attrEnsureInit; split <;> rfl
@[simp] theorem attrEnsureInit_schedDuration (s : State) : (attrEnsureInit s).schedDuration = s.schedDuration := by unfold attrEnsureInit; split <;> rfl
@[simp] theorem attrEnsureInit_schedElapsed (s : State) : (attrEnsureInit s).schedElapsed = s.schedElapsed := by unfold attrEnsureInit; split <;> rfl
@[simp] theorem attrEnsureInit_schedAction (s : State) : (attrEnsureInit s).schedAction = s.schedAction := by unfold attrEnsureInit; split <;> rfl
@[simp] theorem attrEnsureInit_ackOut (s : State) : (attrEnsureInit s).ackOut = s.ackOut := by unfold attrEnsureInit; split <;> rfl
@[simp] theorem attrEnsureInit_busyOut (s : State) : (attrEnsureInit s).busyOut = s.busyOut := by unfold attrEnsureInit; split <;> rfl
@[simp] theorem attrEnsureInit_busOut (s : State) : (attrEnsureInit s).busOut = s.busOut := by unfold attrEnsureInit; split <;> rfl
@[simp] theorem attrEnsureInit_busDrive (s : State) : (attrEnsureInit s).busDrive = s.busDrive := by unfold attrEnsureInit; split <;> rfl
@[simp] theorem attrEnsureInit_modelFaults (s : State) : (attrEnsureInit s).modelFaults = s.modelFaults := by unfold attrEnsureInit; split <;> rfl
@[simp] theorem attrEnsureInit_refusalMark (s : State) : (attrEnsureInit s).refusalMark = s.refusalMark := by unfold attrEnsureInit; split <;> rfl

/-! `memWrite` -/

@[simp] theorem memWrite_config (i : Fin attributeTableSize) (v : Byte) (s : State) : (memWrite i v s).config = s.config := by simp [memWrite]
@[simp] theorem memWrite_inputs (i : Fin attributeTableSize) (v : Byte) (s : State) : (memWrite i v s).inputs = s.inputs := by simp [memWrite]
@[simp] theorem memWrite_draws (i : Fin attributeTableSize) (v : Byte) (s : State) : (memWrite i v s).draws = s.draws := by simp [memWrite]
@[simp] theorem memWrite_id (i : Fin attributeTableSize) (v : Byte) (s : State) : (memWrite i v s).id = s.id := by simp [memWrite]
@[simp] theorem memWrite_protocolState (i : Fin attributeTableSize) (v : Byte) (s : State) : (memWrite i v s).protocolState = s.protocolState := by simp [memWrite]
@[simp] theorem memWrite_previousPins (i : Fin attributeTableSize) (v : Byte) (s : State) : (memWrite i v s).previousPins = s.previousPins := by simp [memWrite]
@[simp] theorem memWrite_cmd (i : Fin attributeTableSize) (v : Byte) (s : State) : (memWrite i v s).cmd = s.cmd := by simp [memWrite]
@[simp] theorem memWrite_paramOut (i : Fin attributeTableSize) (v : Byte) (s : State) : (memWrite i v s).paramOut = s.paramOut := by simp [memWrite]
@[simp] theorem memWrite_paramIn (i : Fin attributeTableSize) (v : Byte) (s : State) : (memWrite i v s).paramIn = s.paramIn := by simp [memWrite]
@[simp] theorem memWrite_generalStatus (i : Fin attributeTableSize) (v : Byte) (s : State) : (memWrite i v s).generalStatus = s.generalStatus := by simp [memWrite]
@[simp] theorem memWrite_senseByte1 (i : Fin attributeTableSize) (v : Byte) (s : State) : (memWrite i v s).senseByte1 = s.senseByte1 := by simp [memWrite]
@[simp] theorem memWrite_senseByte2 (i : Fin attributeTableSize) (v : Byte) (s : State) : (memWrite i v s).senseByte2 = s.senseByte2 := by simp [memWrite]
@[simp] theorem memWrite_attentionPending (i : Fin attributeTableSize) (v : Byte) (s : State) : (memWrite i v s).attentionPending = s.attentionPending := by simp [memWrite]
@[simp] theorem memWrite_attentionEnabled (i : Fin attributeTableSize) (v : Byte) (s : State) : (memWrite i v s).attentionEnabled = s.attentionEnabled := by simp [memWrite]
@[simp] theorem memWrite_writeEnabled (i : Fin attributeTableSize) (v : Byte) (s : State) : (memWrite i v s).writeEnabled = s.writeEnabled := by simp [memWrite]
@[simp] theorem memWrite_selectedHead (i : Fin attributeTableSize) (v : Byte) (s : State) : (memWrite i v s).selectedHead = s.selectedHead := by simp [memWrite]
@[simp] theorem memWrite_currentCylinderHigh (i : Fin attributeTableSize) (v : Byte) (s : State) : (memWrite i v s).currentCylinderHigh = s.currentCylinderHigh := by simp [memWrite]
@[simp] theorem memWrite_currentCylinderLow (i : Fin attributeTableSize) (v : Byte) (s : State) : (memWrite i v s).currentCylinderLow = s.currentCylinderLow := by simp [memWrite]
@[simp] theorem memWrite_loadCylinderHigh (i : Fin attributeTableSize) (v : Byte) (s : State) : (memWrite i v s).loadCylinderHigh = s.loadCylinderHigh := by simp [memWrite]
@[simp] theorem memWrite_loadCylinderLow (i : Fin attributeTableSize) (v : Byte) (s : State) : (memWrite i v s).loadCylinderLow = s.loadCylinderLow := by simp [memWrite]
@[simp] theorem memWrite_testByte (i : Fin attributeTableSize) (v : Byte) (s : State) : (memWrite i v s).testByte = s.testByte := by simp [memWrite]
@[simp] theorem memWrite_attributeNumber (i : Fin attributeTableSize) (v : Byte) (s : State) : (memWrite i v s).attributeNumber = s.attributeNumber := by simp [memWrite]
@[simp] theorem memWrite_attributesInitialized (i : Fin attributeTableSize) (v : Byte) (s : State) : (memWrite i v s).attributesInitialized = true := by simp [memWrite]
@[simp] theorem memWrite_schedActive (i : Fin attributeTableSize) (v : Byte) (s : State) : (memWrite i v s).schedActive = s.schedActive := by simp [memWrite]
@[simp] theorem memWrite_schedDuration (i : Fin attributeTableSize) (v : Byte) (s : State) : (memWrite i v s).schedDuration = s.schedDuration := by simp [memWrite]
@[simp] theorem memWrite_schedElapsed (i : Fin attributeTableSize) (v : Byte) (s : State) : (memWrite i v s).schedElapsed = s.schedElapsed := by simp [memWrite]
@[simp] theorem memWrite_schedAction (i : Fin attributeTableSize) (v : Byte) (s : State) : (memWrite i v s).schedAction = s.schedAction := by simp [memWrite]
@[simp] theorem memWrite_ackOut (i : Fin attributeTableSize) (v : Byte) (s : State) : (memWrite i v s).ackOut = s.ackOut := by simp [memWrite]
@[simp] theorem memWrite_busyOut (i : Fin attributeTableSize) (v : Byte) (s : State) : (memWrite i v s).busyOut = s.busyOut := by simp [memWrite]
@[simp] theorem memWrite_busOut (i : Fin attributeTableSize) (v : Byte) (s : State) : (memWrite i v s).busOut = s.busOut := by simp [memWrite]
@[simp] theorem memWrite_busDrive (i : Fin attributeTableSize) (v : Byte) (s : State) : (memWrite i v s).busDrive = s.busDrive := by simp [memWrite]
@[simp] theorem memWrite_modelFaults (i : Fin attributeTableSize) (v : Byte) (s : State) : (memWrite i v s).modelFaults = s.modelFaults := by simp [memWrite]
@[simp] theorem memWrite_refusalMark (i : Fin attributeTableSize) (v : Byte) (s : State) : (memWrite i v s).refusalMark = s.refusalMark := by simp [memWrite]

/-! `writeSenseByte` -/

@[simp] theorem writeSenseByte_config (n : SenseByte) (v : Byte) (s : State) : (writeSenseByte n v s).config = s.config := by cases n <;> rfl
@[simp] theorem writeSenseByte_inputs (n : SenseByte) (v : Byte) (s : State) : (writeSenseByte n v s).inputs = s.inputs := by cases n <;> rfl
@[simp] theorem writeSenseByte_draws (n : SenseByte) (v : Byte) (s : State) : (writeSenseByte n v s).draws = s.draws := by cases n <;> rfl
@[simp] theorem writeSenseByte_id (n : SenseByte) (v : Byte) (s : State) : (writeSenseByte n v s).id = s.id := by cases n <;> rfl
@[simp] theorem writeSenseByte_protocolState (n : SenseByte) (v : Byte) (s : State) : (writeSenseByte n v s).protocolState = s.protocolState := by cases n <;> rfl
@[simp] theorem writeSenseByte_previousPins (n : SenseByte) (v : Byte) (s : State) : (writeSenseByte n v s).previousPins = s.previousPins := by cases n <;> rfl
@[simp] theorem writeSenseByte_cmd (n : SenseByte) (v : Byte) (s : State) : (writeSenseByte n v s).cmd = s.cmd := by cases n <;> rfl
@[simp] theorem writeSenseByte_paramOut (n : SenseByte) (v : Byte) (s : State) : (writeSenseByte n v s).paramOut = s.paramOut := by cases n <;> rfl
@[simp] theorem writeSenseByte_paramIn (n : SenseByte) (v : Byte) (s : State) : (writeSenseByte n v s).paramIn = s.paramIn := by cases n <;> rfl
@[simp] theorem writeSenseByte_generalStatus (n : SenseByte) (v : Byte) (s : State) : (writeSenseByte n v s).generalStatus = s.generalStatus := by cases n <;> rfl
@[simp] theorem writeSenseByte_attentionPending (n : SenseByte) (v : Byte) (s : State) : (writeSenseByte n v s).attentionPending = s.attentionPending := by cases n <;> rfl
@[simp] theorem writeSenseByte_attentionEnabled (n : SenseByte) (v : Byte) (s : State) : (writeSenseByte n v s).attentionEnabled = s.attentionEnabled := by cases n <;> rfl
@[simp] theorem writeSenseByte_writeEnabled (n : SenseByte) (v : Byte) (s : State) : (writeSenseByte n v s).writeEnabled = s.writeEnabled := by cases n <;> rfl
@[simp] theorem writeSenseByte_selectedHead (n : SenseByte) (v : Byte) (s : State) : (writeSenseByte n v s).selectedHead = s.selectedHead := by cases n <;> rfl
@[simp] theorem writeSenseByte_currentCylinderHigh (n : SenseByte) (v : Byte) (s : State) : (writeSenseByte n v s).currentCylinderHigh = s.currentCylinderHigh := by cases n <;> rfl
@[simp] theorem writeSenseByte_currentCylinderLow (n : SenseByte) (v : Byte) (s : State) : (writeSenseByte n v s).currentCylinderLow = s.currentCylinderLow := by cases n <;> rfl
@[simp] theorem writeSenseByte_loadCylinderHigh (n : SenseByte) (v : Byte) (s : State) : (writeSenseByte n v s).loadCylinderHigh = s.loadCylinderHigh := by cases n <;> rfl
@[simp] theorem writeSenseByte_loadCylinderLow (n : SenseByte) (v : Byte) (s : State) : (writeSenseByte n v s).loadCylinderLow = s.loadCylinderLow := by cases n <;> rfl
@[simp] theorem writeSenseByte_testByte (n : SenseByte) (v : Byte) (s : State) : (writeSenseByte n v s).testByte = s.testByte := by cases n <;> rfl
@[simp] theorem writeSenseByte_attributeNumber (n : SenseByte) (v : Byte) (s : State) : (writeSenseByte n v s).attributeNumber = s.attributeNumber := by cases n <;> rfl
@[simp] theorem writeSenseByte_attributes (n : SenseByte) (v : Byte) (s : State) : (writeSenseByte n v s).attributes = s.attributes := by cases n <;> rfl
@[simp] theorem writeSenseByte_attributesInitialized (n : SenseByte) (v : Byte) (s : State) : (writeSenseByte n v s).attributesInitialized = s.attributesInitialized := by cases n <;> rfl
@[simp] theorem writeSenseByte_schedActive (n : SenseByte) (v : Byte) (s : State) : (writeSenseByte n v s).schedActive = s.schedActive := by cases n <;> rfl
@[simp] theorem writeSenseByte_schedDuration (n : SenseByte) (v : Byte) (s : State) : (writeSenseByte n v s).schedDuration = s.schedDuration := by cases n <;> rfl
@[simp] theorem writeSenseByte_schedElapsed (n : SenseByte) (v : Byte) (s : State) : (writeSenseByte n v s).schedElapsed = s.schedElapsed := by cases n <;> rfl
@[simp] theorem writeSenseByte_schedAction (n : SenseByte) (v : Byte) (s : State) : (writeSenseByte n v s).schedAction = s.schedAction := by cases n <;> rfl
@[simp] theorem writeSenseByte_ackOut (n : SenseByte) (v : Byte) (s : State) : (writeSenseByte n v s).ackOut = s.ackOut := by cases n <;> rfl
@[simp] theorem writeSenseByte_busyOut (n : SenseByte) (v : Byte) (s : State) : (writeSenseByte n v s).busyOut = s.busyOut := by cases n <;> rfl
@[simp] theorem writeSenseByte_busOut (n : SenseByte) (v : Byte) (s : State) : (writeSenseByte n v s).busOut = s.busOut := by cases n <;> rfl
@[simp] theorem writeSenseByte_busDrive (n : SenseByte) (v : Byte) (s : State) : (writeSenseByte n v s).busDrive = s.busDrive := by cases n <;> rfl
@[simp] theorem writeSenseByte_modelFaults (n : SenseByte) (v : Byte) (s : State) : (writeSenseByte n v s).modelFaults = s.modelFaults := by cases n <;> rfl
@[simp] theorem writeSenseByte_refusalMark (n : SenseByte) (v : Byte) (s : State) : (writeSenseByte n v s).refusalMark = s.refusalMark := by cases n <;> rfl

/-! `updateSummary` -/

@[simp] theorem updateSummary_config (n : SenseByte) (s : State) : (updateSummary n s).config = s.config := rfl
@[simp] theorem updateSummary_inputs (n : SenseByte) (s : State) : (updateSummary n s).inputs = s.inputs := rfl
@[simp] theorem updateSummary_draws (n : SenseByte) (s : State) : (updateSummary n s).draws = s.draws := rfl
@[simp] theorem updateSummary_id (n : SenseByte) (s : State) : (updateSummary n s).id = s.id := rfl
@[simp] theorem updateSummary_protocolState (n : SenseByte) (s : State) : (updateSummary n s).protocolState = s.protocolState := rfl
@[simp] theorem updateSummary_previousPins (n : SenseByte) (s : State) : (updateSummary n s).previousPins = s.previousPins := rfl
@[simp] theorem updateSummary_cmd (n : SenseByte) (s : State) : (updateSummary n s).cmd = s.cmd := rfl
@[simp] theorem updateSummary_paramOut (n : SenseByte) (s : State) : (updateSummary n s).paramOut = s.paramOut := rfl
@[simp] theorem updateSummary_paramIn (n : SenseByte) (s : State) : (updateSummary n s).paramIn = s.paramIn := rfl
@[simp] theorem updateSummary_generalStatus (n : SenseByte) (s : State) : (updateSummary n s).generalStatus = writeFlag s.generalStatus (summaryMask n) (senseByte n s != 0) := rfl
@[simp] theorem updateSummary_senseByte1 (n : SenseByte) (s : State) : (updateSummary n s).senseByte1 = s.senseByte1 := rfl
@[simp] theorem updateSummary_senseByte2 (n : SenseByte) (s : State) : (updateSummary n s).senseByte2 = s.senseByte2 := rfl
@[simp] theorem updateSummary_attentionPending (n : SenseByte) (s : State) : (updateSummary n s).attentionPending = s.attentionPending := rfl
@[simp] theorem updateSummary_attentionEnabled (n : SenseByte) (s : State) : (updateSummary n s).attentionEnabled = s.attentionEnabled := rfl
@[simp] theorem updateSummary_writeEnabled (n : SenseByte) (s : State) : (updateSummary n s).writeEnabled = s.writeEnabled := rfl
@[simp] theorem updateSummary_selectedHead (n : SenseByte) (s : State) : (updateSummary n s).selectedHead = s.selectedHead := rfl
@[simp] theorem updateSummary_currentCylinderHigh (n : SenseByte) (s : State) : (updateSummary n s).currentCylinderHigh = s.currentCylinderHigh := rfl
@[simp] theorem updateSummary_currentCylinderLow (n : SenseByte) (s : State) : (updateSummary n s).currentCylinderLow = s.currentCylinderLow := rfl
@[simp] theorem updateSummary_loadCylinderHigh (n : SenseByte) (s : State) : (updateSummary n s).loadCylinderHigh = s.loadCylinderHigh := rfl
@[simp] theorem updateSummary_loadCylinderLow (n : SenseByte) (s : State) : (updateSummary n s).loadCylinderLow = s.loadCylinderLow := rfl
@[simp] theorem updateSummary_testByte (n : SenseByte) (s : State) : (updateSummary n s).testByte = s.testByte := rfl
@[simp] theorem updateSummary_attributeNumber (n : SenseByte) (s : State) : (updateSummary n s).attributeNumber = s.attributeNumber := rfl
@[simp] theorem updateSummary_attributes (n : SenseByte) (s : State) : (updateSummary n s).attributes = s.attributes := rfl
@[simp] theorem updateSummary_attributesInitialized (n : SenseByte) (s : State) : (updateSummary n s).attributesInitialized = s.attributesInitialized := rfl
@[simp] theorem updateSummary_schedActive (n : SenseByte) (s : State) : (updateSummary n s).schedActive = s.schedActive := rfl
@[simp] theorem updateSummary_schedDuration (n : SenseByte) (s : State) : (updateSummary n s).schedDuration = s.schedDuration := rfl
@[simp] theorem updateSummary_schedElapsed (n : SenseByte) (s : State) : (updateSummary n s).schedElapsed = s.schedElapsed := rfl
@[simp] theorem updateSummary_schedAction (n : SenseByte) (s : State) : (updateSummary n s).schedAction = s.schedAction := rfl
@[simp] theorem updateSummary_ackOut (n : SenseByte) (s : State) : (updateSummary n s).ackOut = s.ackOut := rfl
@[simp] theorem updateSummary_busyOut (n : SenseByte) (s : State) : (updateSummary n s).busyOut = s.busyOut := rfl
@[simp] theorem updateSummary_busOut (n : SenseByte) (s : State) : (updateSummary n s).busOut = s.busOut := rfl
@[simp] theorem updateSummary_busDrive (n : SenseByte) (s : State) : (updateSummary n s).busDrive = s.busDrive := rfl
@[simp] theorem updateSummary_modelFaults (n : SenseByte) (s : State) : (updateSummary n s).modelFaults = s.modelFaults := rfl
@[simp] theorem updateSummary_refusalMark (n : SenseByte) (s : State) : (updateSummary n s).refusalMark = s.refusalMark := rfl

/-! `raiseAttentionIf` -/

@[simp] theorem raiseAttentionIf_config (b : Bool) (s : State) : (raiseAttentionIf b s).config = s.config := rfl
@[simp] theorem raiseAttentionIf_inputs (b : Bool) (s : State) : (raiseAttentionIf b s).inputs = s.inputs := rfl
@[simp] theorem raiseAttentionIf_draws (b : Bool) (s : State) : (raiseAttentionIf b s).draws = s.draws := rfl
@[simp] theorem raiseAttentionIf_id (b : Bool) (s : State) : (raiseAttentionIf b s).id = s.id := rfl
@[simp] theorem raiseAttentionIf_protocolState (b : Bool) (s : State) : (raiseAttentionIf b s).protocolState = s.protocolState := rfl
@[simp] theorem raiseAttentionIf_previousPins (b : Bool) (s : State) : (raiseAttentionIf b s).previousPins = s.previousPins := rfl
@[simp] theorem raiseAttentionIf_cmd (b : Bool) (s : State) : (raiseAttentionIf b s).cmd = s.cmd := rfl
@[simp] theorem raiseAttentionIf_paramOut (b : Bool) (s : State) : (raiseAttentionIf b s).paramOut = s.paramOut := rfl
@[simp] theorem raiseAttentionIf_paramIn (b : Bool) (s : State) : (raiseAttentionIf b s).paramIn = s.paramIn := rfl
@[simp] theorem raiseAttentionIf_generalStatus (b : Bool) (s : State) : (raiseAttentionIf b s).generalStatus = s.generalStatus := rfl
@[simp] theorem raiseAttentionIf_senseByte1 (b : Bool) (s : State) : (raiseAttentionIf b s).senseByte1 = s.senseByte1 := rfl
@[simp] theorem raiseAttentionIf_senseByte2 (b : Bool) (s : State) : (raiseAttentionIf b s).senseByte2 = s.senseByte2 := rfl
@[simp] theorem raiseAttentionIf_attentionPending (b : Bool) (s : State) : (raiseAttentionIf b s).attentionPending = (s.attentionPending || b) := rfl
@[simp] theorem raiseAttentionIf_attentionEnabled (b : Bool) (s : State) : (raiseAttentionIf b s).attentionEnabled = s.attentionEnabled := rfl
@[simp] theorem raiseAttentionIf_writeEnabled (b : Bool) (s : State) : (raiseAttentionIf b s).writeEnabled = s.writeEnabled := rfl
@[simp] theorem raiseAttentionIf_selectedHead (b : Bool) (s : State) : (raiseAttentionIf b s).selectedHead = s.selectedHead := rfl
@[simp] theorem raiseAttentionIf_currentCylinderHigh (b : Bool) (s : State) : (raiseAttentionIf b s).currentCylinderHigh = s.currentCylinderHigh := rfl
@[simp] theorem raiseAttentionIf_currentCylinderLow (b : Bool) (s : State) : (raiseAttentionIf b s).currentCylinderLow = s.currentCylinderLow := rfl
@[simp] theorem raiseAttentionIf_loadCylinderHigh (b : Bool) (s : State) : (raiseAttentionIf b s).loadCylinderHigh = s.loadCylinderHigh := rfl
@[simp] theorem raiseAttentionIf_loadCylinderLow (b : Bool) (s : State) : (raiseAttentionIf b s).loadCylinderLow = s.loadCylinderLow := rfl
@[simp] theorem raiseAttentionIf_testByte (b : Bool) (s : State) : (raiseAttentionIf b s).testByte = s.testByte := rfl
@[simp] theorem raiseAttentionIf_attributeNumber (b : Bool) (s : State) : (raiseAttentionIf b s).attributeNumber = s.attributeNumber := rfl
@[simp] theorem raiseAttentionIf_attributes (b : Bool) (s : State) : (raiseAttentionIf b s).attributes = s.attributes := rfl
@[simp] theorem raiseAttentionIf_attributesInitialized (b : Bool) (s : State) : (raiseAttentionIf b s).attributesInitialized = s.attributesInitialized := rfl
@[simp] theorem raiseAttentionIf_schedActive (b : Bool) (s : State) : (raiseAttentionIf b s).schedActive = s.schedActive := rfl
@[simp] theorem raiseAttentionIf_schedDuration (b : Bool) (s : State) : (raiseAttentionIf b s).schedDuration = s.schedDuration := rfl
@[simp] theorem raiseAttentionIf_schedElapsed (b : Bool) (s : State) : (raiseAttentionIf b s).schedElapsed = s.schedElapsed := rfl
@[simp] theorem raiseAttentionIf_schedAction (b : Bool) (s : State) : (raiseAttentionIf b s).schedAction = s.schedAction := rfl
@[simp] theorem raiseAttentionIf_ackOut (b : Bool) (s : State) : (raiseAttentionIf b s).ackOut = s.ackOut := rfl
@[simp] theorem raiseAttentionIf_busyOut (b : Bool) (s : State) : (raiseAttentionIf b s).busyOut = s.busyOut := rfl
@[simp] theorem raiseAttentionIf_busOut (b : Bool) (s : State) : (raiseAttentionIf b s).busOut = s.busOut := rfl
@[simp] theorem raiseAttentionIf_busDrive (b : Bool) (s : State) : (raiseAttentionIf b s).busDrive = s.busDrive := rfl
@[simp] theorem raiseAttentionIf_modelFaults (b : Bool) (s : State) : (raiseAttentionIf b s).modelFaults = s.modelFaults := rfl
@[simp] theorem raiseAttentionIf_refusalMark (b : Bool) (s : State) : (raiseAttentionIf b s).refusalMark = s.refusalMark := rfl

/-! `clearSense` -/

@[simp] theorem clearSense_config (n : SenseByte) (m : Byte) (s : State) : (clearSense n m s).config = s.config := by simp [clearSense]
@[simp] theorem clearSense_inputs (n : SenseByte) (m : Byte) (s : State) : (clearSense n m s).inputs = s.inputs := by simp [clearSense]
@[simp] theorem clearSense_draws (n : SenseByte) (m : Byte) (s : State) : (clearSense n m s).draws = s.draws := by simp [clearSense]
@[simp] theorem clearSense_id (n : SenseByte) (m : Byte) (s : State) : (clearSense n m s).id = s.id := by simp [clearSense]
@[simp] theorem clearSense_protocolState (n : SenseByte) (m : Byte) (s : State) : (clearSense n m s).protocolState = s.protocolState := by simp [clearSense]
@[simp] theorem clearSense_previousPins (n : SenseByte) (m : Byte) (s : State) : (clearSense n m s).previousPins = s.previousPins := by simp [clearSense]
@[simp] theorem clearSense_cmd (n : SenseByte) (m : Byte) (s : State) : (clearSense n m s).cmd = s.cmd := by simp [clearSense]
@[simp] theorem clearSense_paramOut (n : SenseByte) (m : Byte) (s : State) : (clearSense n m s).paramOut = s.paramOut := by simp [clearSense]
@[simp] theorem clearSense_paramIn (n : SenseByte) (m : Byte) (s : State) : (clearSense n m s).paramIn = s.paramIn := by simp [clearSense]
@[simp] theorem clearSense_attentionPending (n : SenseByte) (m : Byte) (s : State) : (clearSense n m s).attentionPending = s.attentionPending := by simp [clearSense]
@[simp] theorem clearSense_attentionEnabled (n : SenseByte) (m : Byte) (s : State) : (clearSense n m s).attentionEnabled = s.attentionEnabled := by simp [clearSense]
@[simp] theorem clearSense_writeEnabled (n : SenseByte) (m : Byte) (s : State) : (clearSense n m s).writeEnabled = s.writeEnabled := by simp [clearSense]
@[simp] theorem clearSense_selectedHead (n : SenseByte) (m : Byte) (s : State) : (clearSense n m s).selectedHead = s.selectedHead := by simp [clearSense]
@[simp] theorem clearSense_currentCylinderHigh (n : SenseByte) (m : Byte) (s : State) : (clearSense n m s).currentCylinderHigh = s.currentCylinderHigh := by simp [clearSense]
@[simp] theorem clearSense_currentCylinderLow (n : SenseByte) (m : Byte) (s : State) : (clearSense n m s).currentCylinderLow = s.currentCylinderLow := by simp [clearSense]
@[simp] theorem clearSense_loadCylinderHigh (n : SenseByte) (m : Byte) (s : State) : (clearSense n m s).loadCylinderHigh = s.loadCylinderHigh := by simp [clearSense]
@[simp] theorem clearSense_loadCylinderLow (n : SenseByte) (m : Byte) (s : State) : (clearSense n m s).loadCylinderLow = s.loadCylinderLow := by simp [clearSense]
@[simp] theorem clearSense_testByte (n : SenseByte) (m : Byte) (s : State) : (clearSense n m s).testByte = s.testByte := by simp [clearSense]
@[simp] theorem clearSense_attributeNumber (n : SenseByte) (m : Byte) (s : State) : (clearSense n m s).attributeNumber = s.attributeNumber := by simp [clearSense]
@[simp] theorem clearSense_attributes (n : SenseByte) (m : Byte) (s : State) : (clearSense n m s).attributes = s.attributes := by simp [clearSense]
@[simp] theorem clearSense_attributesInitialized (n : SenseByte) (m : Byte) (s : State) : (clearSense n m s).attributesInitialized = s.attributesInitialized := by simp [clearSense]
@[simp] theorem clearSense_schedActive (n : SenseByte) (m : Byte) (s : State) : (clearSense n m s).schedActive = s.schedActive := by simp [clearSense]
@[simp] theorem clearSense_schedDuration (n : SenseByte) (m : Byte) (s : State) : (clearSense n m s).schedDuration = s.schedDuration := by simp [clearSense]
@[simp] theorem clearSense_schedElapsed (n : SenseByte) (m : Byte) (s : State) : (clearSense n m s).schedElapsed = s.schedElapsed := by simp [clearSense]
@[simp] theorem clearSense_schedAction (n : SenseByte) (m : Byte) (s : State) : (clearSense n m s).schedAction = s.schedAction := by simp [clearSense]
@[simp] theorem clearSense_ackOut (n : SenseByte) (m : Byte) (s : State) : (clearSense n m s).ackOut = s.ackOut := by simp [clearSense]
@[simp] theorem clearSense_busyOut (n : SenseByte) (m : Byte) (s : State) : (clearSense n m s).busyOut = s.busyOut := by simp [clearSense]
@[simp] theorem clearSense_busOut (n : SenseByte) (m : Byte) (s : State) : (clearSense n m s).busOut = s.busOut := by simp [clearSense]
@[simp] theorem clearSense_busDrive (n : SenseByte) (m : Byte) (s : State) : (clearSense n m s).busDrive = s.busDrive := by simp [clearSense]
@[simp] theorem clearSense_modelFaults (n : SenseByte) (m : Byte) (s : State) : (clearSense n m s).modelFaults = s.modelFaults := by simp [clearSense]
@[simp] theorem clearSense_refusalMark (n : SenseByte) (m : Byte) (s : State) : (clearSense n m s).refusalMark = s.refusalMark := by simp [clearSense]

/-! `setSense` -/

@[simp] theorem setSense_config (n : SenseByte) (m : Byte) (s : State) : (setSense n m s).config = s.config := by simp [setSense]
@[simp] theorem setSense_inputs (n : SenseByte) (m : Byte) (s : State) : (setSense n m s).inputs = s.inputs := by simp [setSense]
@[simp] theorem setSense_draws (n : SenseByte) (m : Byte) (s : State) : (setSense n m s).draws = s.draws := by simp [setSense]
@[simp] theorem setSense_id (n : SenseByte) (m : Byte) (s : State) : (setSense n m s).id = s.id := by simp [setSense]
@[simp] theorem setSense_protocolState (n : SenseByte) (m : Byte) (s : State) : (setSense n m s).protocolState = s.protocolState := by simp [setSense]
@[simp] theorem setSense_previousPins (n : SenseByte) (m : Byte) (s : State) : (setSense n m s).previousPins = s.previousPins := by simp [setSense]
@[simp] theorem setSense_cmd (n : SenseByte) (m : Byte) (s : State) : (setSense n m s).cmd = s.cmd := by simp [setSense]
@[simp] theorem setSense_paramOut (n : SenseByte) (m : Byte) (s : State) : (setSense n m s).paramOut = s.paramOut := by simp [setSense]
@[simp] theorem setSense_paramIn (n : SenseByte) (m : Byte) (s : State) : (setSense n m s).paramIn = s.paramIn := by simp [setSense]
@[simp] theorem setSense_attentionPending (n : SenseByte) (m : Byte) (s : State) : (setSense n m s).attentionPending = (s.attentionPending || (m &&& ~~~senseByte n s &&& attentionMask n s.config != 0)) := by simp [setSense]
@[simp] theorem setSense_attentionEnabled (n : SenseByte) (m : Byte) (s : State) : (setSense n m s).attentionEnabled = s.attentionEnabled := by simp [setSense]
@[simp] theorem setSense_writeEnabled (n : SenseByte) (m : Byte) (s : State) : (setSense n m s).writeEnabled = s.writeEnabled := by simp [setSense]
@[simp] theorem setSense_selectedHead (n : SenseByte) (m : Byte) (s : State) : (setSense n m s).selectedHead = s.selectedHead := by simp [setSense]
@[simp] theorem setSense_currentCylinderHigh (n : SenseByte) (m : Byte) (s : State) : (setSense n m s).currentCylinderHigh = s.currentCylinderHigh := by simp [setSense]
@[simp] theorem setSense_currentCylinderLow (n : SenseByte) (m : Byte) (s : State) : (setSense n m s).currentCylinderLow = s.currentCylinderLow := by simp [setSense]
@[simp] theorem setSense_loadCylinderHigh (n : SenseByte) (m : Byte) (s : State) : (setSense n m s).loadCylinderHigh = s.loadCylinderHigh := by simp [setSense]
@[simp] theorem setSense_loadCylinderLow (n : SenseByte) (m : Byte) (s : State) : (setSense n m s).loadCylinderLow = s.loadCylinderLow := by simp [setSense]
@[simp] theorem setSense_testByte (n : SenseByte) (m : Byte) (s : State) : (setSense n m s).testByte = s.testByte := by simp [setSense]
@[simp] theorem setSense_attributeNumber (n : SenseByte) (m : Byte) (s : State) : (setSense n m s).attributeNumber = s.attributeNumber := by simp [setSense]
@[simp] theorem setSense_attributes (n : SenseByte) (m : Byte) (s : State) : (setSense n m s).attributes = s.attributes := by simp [setSense]
@[simp] theorem setSense_attributesInitialized (n : SenseByte) (m : Byte) (s : State) : (setSense n m s).attributesInitialized = s.attributesInitialized := by simp [setSense]
@[simp] theorem setSense_schedActive (n : SenseByte) (m : Byte) (s : State) : (setSense n m s).schedActive = s.schedActive := by simp [setSense]
@[simp] theorem setSense_schedDuration (n : SenseByte) (m : Byte) (s : State) : (setSense n m s).schedDuration = s.schedDuration := by simp [setSense]
@[simp] theorem setSense_schedElapsed (n : SenseByte) (m : Byte) (s : State) : (setSense n m s).schedElapsed = s.schedElapsed := by simp [setSense]
@[simp] theorem setSense_schedAction (n : SenseByte) (m : Byte) (s : State) : (setSense n m s).schedAction = s.schedAction := by simp [setSense]
@[simp] theorem setSense_ackOut (n : SenseByte) (m : Byte) (s : State) : (setSense n m s).ackOut = s.ackOut := by simp [setSense]
@[simp] theorem setSense_busyOut (n : SenseByte) (m : Byte) (s : State) : (setSense n m s).busyOut = s.busyOut := by simp [setSense]
@[simp] theorem setSense_busOut (n : SenseByte) (m : Byte) (s : State) : (setSense n m s).busOut = s.busOut := by simp [setSense]
@[simp] theorem setSense_busDrive (n : SenseByte) (m : Byte) (s : State) : (setSense n m s).busDrive = s.busDrive := by simp [setSense]
@[simp] theorem setSense_modelFaults (n : SenseByte) (m : Byte) (s : State) : (setSense n m s).modelFaults = s.modelFaults := by simp [setSense]
@[simp] theorem setSense_refusalMark (n : SenseByte) (m : Byte) (s : State) : (setSense n m s).refusalMark = s.refusalMark := by simp [setSense]

/-! `schedStart` -/

@[simp] theorem schedStart_config (d : Time) (a : SchedAction) (s : State) : (schedStart d a s).config = s.config := rfl
@[simp] theorem schedStart_inputs (d : Time) (a : SchedAction) (s : State) : (schedStart d a s).inputs = s.inputs := rfl
@[simp] theorem schedStart_draws (d : Time) (a : SchedAction) (s : State) : (schedStart d a s).draws = s.draws := rfl
@[simp] theorem schedStart_id (d : Time) (a : SchedAction) (s : State) : (schedStart d a s).id = s.id := rfl
@[simp] theorem schedStart_protocolState (d : Time) (a : SchedAction) (s : State) : (schedStart d a s).protocolState = s.protocolState := rfl
@[simp] theorem schedStart_previousPins (d : Time) (a : SchedAction) (s : State) : (schedStart d a s).previousPins = s.previousPins := rfl
@[simp] theorem schedStart_cmd (d : Time) (a : SchedAction) (s : State) : (schedStart d a s).cmd = s.cmd := rfl
@[simp] theorem schedStart_paramOut (d : Time) (a : SchedAction) (s : State) : (schedStart d a s).paramOut = s.paramOut := rfl
@[simp] theorem schedStart_paramIn (d : Time) (a : SchedAction) (s : State) : (schedStart d a s).paramIn = s.paramIn := rfl
@[simp] theorem schedStart_generalStatus (d : Time) (a : SchedAction) (s : State) : (schedStart d a s).generalStatus = setBits s.generalStatus busyMask := rfl
@[simp] theorem schedStart_senseByte1 (d : Time) (a : SchedAction) (s : State) : (schedStart d a s).senseByte1 = s.senseByte1 := rfl
@[simp] theorem schedStart_senseByte2 (d : Time) (a : SchedAction) (s : State) : (schedStart d a s).senseByte2 = s.senseByte2 := rfl
@[simp] theorem schedStart_attentionPending (d : Time) (a : SchedAction) (s : State) : (schedStart d a s).attentionPending = s.attentionPending := rfl
@[simp] theorem schedStart_attentionEnabled (d : Time) (a : SchedAction) (s : State) : (schedStart d a s).attentionEnabled = s.attentionEnabled := rfl
@[simp] theorem schedStart_writeEnabled (d : Time) (a : SchedAction) (s : State) : (schedStart d a s).writeEnabled = s.writeEnabled := rfl
@[simp] theorem schedStart_selectedHead (d : Time) (a : SchedAction) (s : State) : (schedStart d a s).selectedHead = s.selectedHead := rfl
@[simp] theorem schedStart_currentCylinderHigh (d : Time) (a : SchedAction) (s : State) : (schedStart d a s).currentCylinderHigh = s.currentCylinderHigh := rfl
@[simp] theorem schedStart_currentCylinderLow (d : Time) (a : SchedAction) (s : State) : (schedStart d a s).currentCylinderLow = s.currentCylinderLow := rfl
@[simp] theorem schedStart_loadCylinderHigh (d : Time) (a : SchedAction) (s : State) : (schedStart d a s).loadCylinderHigh = s.loadCylinderHigh := rfl
@[simp] theorem schedStart_loadCylinderLow (d : Time) (a : SchedAction) (s : State) : (schedStart d a s).loadCylinderLow = s.loadCylinderLow := rfl
@[simp] theorem schedStart_testByte (d : Time) (a : SchedAction) (s : State) : (schedStart d a s).testByte = s.testByte := rfl
@[simp] theorem schedStart_attributeNumber (d : Time) (a : SchedAction) (s : State) : (schedStart d a s).attributeNumber = s.attributeNumber := rfl
@[simp] theorem schedStart_attributes (d : Time) (a : SchedAction) (s : State) : (schedStart d a s).attributes = s.attributes := rfl
@[simp] theorem schedStart_attributesInitialized (d : Time) (a : SchedAction) (s : State) : (schedStart d a s).attributesInitialized = s.attributesInitialized := rfl
@[simp] theorem schedStart_schedActive (d : Time) (a : SchedAction) (s : State) : (schedStart d a s).schedActive = true := rfl
@[simp] theorem schedStart_schedDuration (d : Time) (a : SchedAction) (s : State) : (schedStart d a s).schedDuration = d := rfl
@[simp] theorem schedStart_schedElapsed (d : Time) (a : SchedAction) (s : State) : (schedStart d a s).schedElapsed = 0 := rfl
@[simp] theorem schedStart_schedAction (d : Time) (a : SchedAction) (s : State) : (schedStart d a s).schedAction = a := rfl
@[simp] theorem schedStart_ackOut (d : Time) (a : SchedAction) (s : State) : (schedStart d a s).ackOut = s.ackOut := rfl
@[simp] theorem schedStart_busyOut (d : Time) (a : SchedAction) (s : State) : (schedStart d a s).busyOut = s.busyOut := rfl
@[simp] theorem schedStart_busOut (d : Time) (a : SchedAction) (s : State) : (schedStart d a s).busOut = s.busOut := rfl
@[simp] theorem schedStart_busDrive (d : Time) (a : SchedAction) (s : State) : (schedStart d a s).busDrive = s.busDrive := rfl
@[simp] theorem schedStart_modelFaults (d : Time) (a : SchedAction) (s : State) : (schedStart d a s).modelFaults = s.modelFaults := rfl
@[simp] theorem schedStart_refusalMark (d : Time) (a : SchedAction) (s : State) : (schedStart d a s).refusalMark = s.refusalMark := rfl

/-! `schedAdvance` -/

@[simp] theorem schedAdvance_config (dt : Time) (s : State) : (schedAdvance dt s).config = s.config := by unfold schedAdvance; split <;> rfl
@[simp] theorem schedAdvance_inputs (dt : Time) (s : State) : (schedAdvance dt s).inputs = s.inputs := by unfold schedAdvance; split <;> rfl
@[simp] theorem schedAdvance_draws (dt : Time) (s : State) : (schedAdvance dt s).draws = s.draws := by unfold schedAdvance; split <;> rfl
@[simp] theorem schedAdvance_id (dt : Time) (s : State) : (schedAdvance dt s).id = s.id := by unfold schedAdvance; split <;> rfl
@[simp] theorem schedAdvance_protocolState (dt : Time) (s : State) : (schedAdvance dt s).protocolState = s.protocolState := by unfold schedAdvance; split <;> rfl
@[simp] theorem schedAdvance_previousPins (dt : Time) (s : State) : (schedAdvance dt s).previousPins = s.previousPins := by unfold schedAdvance; split <;> rfl
@[simp] theorem schedAdvance_cmd (dt : Time) (s : State) : (schedAdvance dt s).cmd = s.cmd := by unfold schedAdvance; split <;> rfl
@[simp] theorem schedAdvance_paramOut (dt : Time) (s : State) : (schedAdvance dt s).paramOut = s.paramOut := by unfold schedAdvance; split <;> rfl
@[simp] theorem schedAdvance_paramIn (dt : Time) (s : State) : (schedAdvance dt s).paramIn = s.paramIn := by unfold schedAdvance; split <;> rfl
@[simp] theorem schedAdvance_generalStatus (dt : Time) (s : State) : (schedAdvance dt s).generalStatus = s.generalStatus := by unfold schedAdvance; split <;> rfl
@[simp] theorem schedAdvance_senseByte1 (dt : Time) (s : State) : (schedAdvance dt s).senseByte1 = s.senseByte1 := by unfold schedAdvance; split <;> rfl
@[simp] theorem schedAdvance_senseByte2 (dt : Time) (s : State) : (schedAdvance dt s).senseByte2 = s.senseByte2 := by unfold schedAdvance; split <;> rfl
@[simp] theorem schedAdvance_attentionPending (dt : Time) (s : State) : (schedAdvance dt s).attentionPending = s.attentionPending := by unfold schedAdvance; split <;> rfl
@[simp] theorem schedAdvance_attentionEnabled (dt : Time) (s : State) : (schedAdvance dt s).attentionEnabled = s.attentionEnabled := by unfold schedAdvance; split <;> rfl
@[simp] theorem schedAdvance_writeEnabled (dt : Time) (s : State) : (schedAdvance dt s).writeEnabled = s.writeEnabled := by unfold schedAdvance; split <;> rfl
@[simp] theorem schedAdvance_selectedHead (dt : Time) (s : State) : (schedAdvance dt s).selectedHead = s.selectedHead := by unfold schedAdvance; split <;> rfl
@[simp] theorem schedAdvance_currentCylinderHigh (dt : Time) (s : State) : (schedAdvance dt s).currentCylinderHigh = s.currentCylinderHigh := by unfold schedAdvance; split <;> rfl
@[simp] theorem schedAdvance_currentCylinderLow (dt : Time) (s : State) : (schedAdvance dt s).currentCylinderLow = s.currentCylinderLow := by unfold schedAdvance; split <;> rfl
@[simp] theorem schedAdvance_loadCylinderHigh (dt : Time) (s : State) : (schedAdvance dt s).loadCylinderHigh = s.loadCylinderHigh := by unfold schedAdvance; split <;> rfl
@[simp] theorem schedAdvance_loadCylinderLow (dt : Time) (s : State) : (schedAdvance dt s).loadCylinderLow = s.loadCylinderLow := by unfold schedAdvance; split <;> rfl
@[simp] theorem schedAdvance_testByte (dt : Time) (s : State) : (schedAdvance dt s).testByte = s.testByte := by unfold schedAdvance; split <;> rfl
@[simp] theorem schedAdvance_attributeNumber (dt : Time) (s : State) : (schedAdvance dt s).attributeNumber = s.attributeNumber := by unfold schedAdvance; split <;> rfl
@[simp] theorem schedAdvance_attributes (dt : Time) (s : State) : (schedAdvance dt s).attributes = s.attributes := by unfold schedAdvance; split <;> rfl
@[simp] theorem schedAdvance_attributesInitialized (dt : Time) (s : State) : (schedAdvance dt s).attributesInitialized = s.attributesInitialized := by unfold schedAdvance; split <;> rfl
@[simp] theorem schedAdvance_schedActive (dt : Time) (s : State) : (schedAdvance dt s).schedActive = s.schedActive := by unfold schedAdvance; split <;> rfl
@[simp] theorem schedAdvance_schedDuration (dt : Time) (s : State) : (schedAdvance dt s).schedDuration = s.schedDuration := by unfold schedAdvance; split <;> rfl
@[simp] theorem schedAdvance_schedElapsed (dt : Time) (s : State) : (schedAdvance dt s).schedElapsed = if s.schedActive then sat32Add s.schedElapsed dt else s.schedElapsed := by unfold schedAdvance; split <;> rfl
@[simp] theorem schedAdvance_schedAction (dt : Time) (s : State) : (schedAdvance dt s).schedAction = s.schedAction := by unfold schedAdvance; split <;> rfl
@[simp] theorem schedAdvance_ackOut (dt : Time) (s : State) : (schedAdvance dt s).ackOut = s.ackOut := by unfold schedAdvance; split <;> rfl
@[simp] theorem schedAdvance_busyOut (dt : Time) (s : State) : (schedAdvance dt s).busyOut = s.busyOut := by unfold schedAdvance; split <;> rfl
@[simp] theorem schedAdvance_busOut (dt : Time) (s : State) : (schedAdvance dt s).busOut = s.busOut := by unfold schedAdvance; split <;> rfl
@[simp] theorem schedAdvance_busDrive (dt : Time) (s : State) : (schedAdvance dt s).busDrive = s.busDrive := by unfold schedAdvance; split <;> rfl
@[simp] theorem schedAdvance_modelFaults (dt : Time) (s : State) : (schedAdvance dt s).modelFaults = s.modelFaults := by unfold schedAdvance; split <;> rfl
@[simp] theorem schedAdvance_refusalMark (dt : Time) (s : State) : (schedAdvance dt s).refusalMark = s.refusalMark := by unfold schedAdvance; split <;> rfl

/-! `runAction` -/

@[simp] theorem runAction_config (a : SchedAction) (s : State) : (runAction a s).config = s.config := by cases a <;> rfl
@[simp] theorem runAction_inputs (a : SchedAction) (s : State) : (runAction a s).inputs = s.inputs := by cases a <;> rfl
@[simp] theorem runAction_draws (a : SchedAction) (s : State) : (runAction a s).draws = s.draws := by cases a <;> rfl
@[simp] theorem runAction_id (a : SchedAction) (s : State) : (runAction a s).id = s.id := by cases a <;> rfl
@[simp] theorem runAction_protocolState (a : SchedAction) (s : State) : (runAction a s).protocolState = s.protocolState := by cases a <;> rfl
@[simp] theorem runAction_previousPins (a : SchedAction) (s : State) : (runAction a s).previousPins = s.previousPins := by cases a <;> rfl
@[simp] theorem runAction_cmd (a : SchedAction) (s : State) : (runAction a s).cmd = s.cmd := by cases a <;> rfl
@[simp] theorem runAction_paramOut (a : SchedAction) (s : State) : (runAction a s).paramOut = s.paramOut := by cases a <;> rfl
@[simp] theorem runAction_paramIn (a : SchedAction) (s : State) : (runAction a s).paramIn = s.paramIn := by cases a <;> rfl
@[simp] theorem runAction_generalStatus (a : SchedAction) (s : State) : (runAction a s).generalStatus = s.generalStatus := by cases a <;> rfl
@[simp] theorem runAction_senseByte1 (a : SchedAction) (s : State) : (runAction a s).senseByte1 = s.senseByte1 := by cases a <;> rfl
@[simp] theorem runAction_senseByte2 (a : SchedAction) (s : State) : (runAction a s).senseByte2 = s.senseByte2 := by cases a <;> rfl
@[simp] theorem runAction_attentionPending (a : SchedAction) (s : State) : (runAction a s).attentionPending = s.attentionPending := by cases a <;> rfl
@[simp] theorem runAction_attentionEnabled (a : SchedAction) (s : State) : (runAction a s).attentionEnabled = s.attentionEnabled := by cases a <;> rfl
@[simp] theorem runAction_writeEnabled (a : SchedAction) (s : State) : (runAction a s).writeEnabled = s.writeEnabled := by cases a <;> rfl
@[simp] theorem runAction_selectedHead (a : SchedAction) (s : State) : (runAction a s).selectedHead = s.selectedHead := by cases a <;> rfl
@[simp] theorem runAction_loadCylinderHigh (a : SchedAction) (s : State) : (runAction a s).loadCylinderHigh = s.loadCylinderHigh := by cases a <;> rfl
@[simp] theorem runAction_loadCylinderLow (a : SchedAction) (s : State) : (runAction a s).loadCylinderLow = s.loadCylinderLow := by cases a <;> rfl
@[simp] theorem runAction_testByte (a : SchedAction) (s : State) : (runAction a s).testByte = s.testByte := by cases a <;> rfl
@[simp] theorem runAction_attributeNumber (a : SchedAction) (s : State) : (runAction a s).attributeNumber = s.attributeNumber := by cases a <;> rfl
@[simp] theorem runAction_attributes (a : SchedAction) (s : State) : (runAction a s).attributes = s.attributes := by cases a <;> rfl
@[simp] theorem runAction_attributesInitialized (a : SchedAction) (s : State) : (runAction a s).attributesInitialized = s.attributesInitialized := by cases a <;> rfl
@[simp] theorem runAction_schedActive (a : SchedAction) (s : State) : (runAction a s).schedActive = s.schedActive := by cases a <;> rfl
@[simp] theorem runAction_schedDuration (a : SchedAction) (s : State) : (runAction a s).schedDuration = s.schedDuration := by cases a <;> rfl
@[simp] theorem runAction_schedElapsed (a : SchedAction) (s : State) : (runAction a s).schedElapsed = s.schedElapsed := by cases a <;> rfl
@[simp] theorem runAction_schedAction (a : SchedAction) (s : State) : (runAction a s).schedAction = s.schedAction := by cases a <;> rfl
@[simp] theorem runAction_ackOut (a : SchedAction) (s : State) : (runAction a s).ackOut = s.ackOut := by cases a <;> rfl
@[simp] theorem runAction_busyOut (a : SchedAction) (s : State) : (runAction a s).busyOut = s.busyOut := by cases a <;> rfl
@[simp] theorem runAction_busOut (a : SchedAction) (s : State) : (runAction a s).busOut = s.busOut := by cases a <;> rfl
@[simp] theorem runAction_busDrive (a : SchedAction) (s : State) : (runAction a s).busDrive = s.busDrive := by cases a <;> rfl
@[simp] theorem runAction_modelFaults (a : SchedAction) (s : State) : (runAction a s).modelFaults = s.modelFaults := by cases a <;> rfl
@[simp] theorem runAction_refusalMark (a : SchedAction) (s : State) : (runAction a s).refusalMark = s.refusalMark := by cases a <;> rfl

/-! `schedComplete` -/

@[simp] theorem schedComplete_config (s : State) : (schedComplete s).config = s.config := by simp [schedComplete]
@[simp] theorem schedComplete_inputs (s : State) : (schedComplete s).inputs = s.inputs := by simp [schedComplete]
@[simp] theorem schedComplete_draws (s : State) : (schedComplete s).draws = s.draws := by simp [schedComplete]
@[simp] theorem schedComplete_id (s : State) : (schedComplete s).id = s.id := by simp [schedComplete]
@[simp] theorem schedComplete_protocolState (s : State) : (schedComplete s).protocolState = s.protocolState := by simp [schedComplete]
@[simp] theorem schedComplete_previousPins (s : State) : (schedComplete s).previousPins = s.previousPins := by simp [schedComplete]
@[simp] theorem schedComplete_cmd (s : State) : (schedComplete s).cmd = s.cmd := by simp [schedComplete]
@[simp] theorem schedComplete_paramOut (s : State) : (schedComplete s).paramOut = s.paramOut := by simp [schedComplete]
@[simp] theorem schedComplete_paramIn (s : State) : (schedComplete s).paramIn = s.paramIn := by simp [schedComplete]
@[simp] theorem schedComplete_generalStatus (s : State) : (schedComplete s).generalStatus = clearBits s.generalStatus busyMask := rfl
@[simp] theorem schedComplete_senseByte1 (s : State) : (schedComplete s).senseByte1 = s.senseByte1 := by simp [schedComplete]
@[simp] theorem schedComplete_senseByte2 (s : State) : (schedComplete s).senseByte2 = s.senseByte2 := by simp [schedComplete]
@[simp] theorem schedComplete_attentionPending (s : State) : (schedComplete s).attentionPending = s.attentionPending := by simp [schedComplete]
@[simp] theorem schedComplete_attentionEnabled (s : State) : (schedComplete s).attentionEnabled = s.attentionEnabled := by simp [schedComplete]
@[simp] theorem schedComplete_writeEnabled (s : State) : (schedComplete s).writeEnabled = s.writeEnabled := by simp [schedComplete]
@[simp] theorem schedComplete_selectedHead (s : State) : (schedComplete s).selectedHead = s.selectedHead := by simp [schedComplete]
@[simp] theorem schedComplete_currentCylinderHigh (s : State) : (schedComplete s).currentCylinderHigh = (runAction s.schedAction s).currentCylinderHigh := rfl
@[simp] theorem schedComplete_currentCylinderLow (s : State) : (schedComplete s).currentCylinderLow = (runAction s.schedAction s).currentCylinderLow := rfl
@[simp] theorem schedComplete_loadCylinderHigh (s : State) : (schedComplete s).loadCylinderHigh = s.loadCylinderHigh := by simp [schedComplete]
@[simp] theorem schedComplete_loadCylinderLow (s : State) : (schedComplete s).loadCylinderLow = s.loadCylinderLow := by simp [schedComplete]
@[simp] theorem schedComplete_testByte (s : State) : (schedComplete s).testByte = s.testByte := by simp [schedComplete]
@[simp] theorem schedComplete_attributeNumber (s : State) : (schedComplete s).attributeNumber = s.attributeNumber := by simp [schedComplete]
@[simp] theorem schedComplete_attributes (s : State) : (schedComplete s).attributes = s.attributes := by simp [schedComplete]
@[simp] theorem schedComplete_attributesInitialized (s : State) : (schedComplete s).attributesInitialized = s.attributesInitialized := by simp [schedComplete]
@[simp] theorem schedComplete_schedActive (s : State) : (schedComplete s).schedActive = false := rfl
@[simp] theorem schedComplete_schedDuration (s : State) : (schedComplete s).schedDuration = s.schedDuration := by simp [schedComplete]
@[simp] theorem schedComplete_schedElapsed (s : State) : (schedComplete s).schedElapsed = s.schedElapsed := by simp [schedComplete]
@[simp] theorem schedComplete_schedAction (s : State) : (schedComplete s).schedAction = .none := rfl
@[simp] theorem schedComplete_ackOut (s : State) : (schedComplete s).ackOut = s.ackOut := by simp [schedComplete]
@[simp] theorem schedComplete_busyOut (s : State) : (schedComplete s).busyOut = s.busyOut := by simp [schedComplete]
@[simp] theorem schedComplete_busOut (s : State) : (schedComplete s).busOut = s.busOut := by simp [schedComplete]
@[simp] theorem schedComplete_busDrive (s : State) : (schedComplete s).busDrive = s.busDrive := by simp [schedComplete]
@[simp] theorem schedComplete_modelFaults (s : State) : (schedComplete s).modelFaults = s.modelFaults := by simp [schedComplete]
@[simp] theorem schedComplete_refusalMark (s : State) : (schedComplete s).refusalMark = s.refusalMark := by simp [schedComplete]

/-! `assertBusyIf` -/

@[simp] theorem assertBusyIf_config (b : Bool) (s : State) : (assertBusyIf b s).config = s.config := rfl
@[simp] theorem assertBusyIf_inputs (b : Bool) (s : State) : (assertBusyIf b s).inputs = s.inputs := rfl
@[simp] theorem assertBusyIf_draws (b : Bool) (s : State) : (assertBusyIf b s).draws = s.draws := rfl
@[simp] theorem assertBusyIf_id (b : Bool) (s : State) : (assertBusyIf b s).id = s.id := rfl
@[simp] theorem assertBusyIf_protocolState (b : Bool) (s : State) : (assertBusyIf b s).protocolState = s.protocolState := rfl
@[simp] theorem assertBusyIf_previousPins (b : Bool) (s : State) : (assertBusyIf b s).previousPins = s.previousPins := rfl
@[simp] theorem assertBusyIf_cmd (b : Bool) (s : State) : (assertBusyIf b s).cmd = s.cmd := rfl
@[simp] theorem assertBusyIf_paramOut (b : Bool) (s : State) : (assertBusyIf b s).paramOut = s.paramOut := rfl
@[simp] theorem assertBusyIf_paramIn (b : Bool) (s : State) : (assertBusyIf b s).paramIn = s.paramIn := rfl
@[simp] theorem assertBusyIf_generalStatus (b : Bool) (s : State) : (assertBusyIf b s).generalStatus = s.generalStatus := rfl
@[simp] theorem assertBusyIf_senseByte1 (b : Bool) (s : State) : (assertBusyIf b s).senseByte1 = s.senseByte1 := rfl
@[simp] theorem assertBusyIf_senseByte2 (b : Bool) (s : State) : (assertBusyIf b s).senseByte2 = s.senseByte2 := rfl
@[simp] theorem assertBusyIf_attentionPending (b : Bool) (s : State) : (assertBusyIf b s).attentionPending = s.attentionPending := rfl
@[simp] theorem assertBusyIf_attentionEnabled (b : Bool) (s : State) : (assertBusyIf b s).attentionEnabled = s.attentionEnabled := rfl
@[simp] theorem assertBusyIf_writeEnabled (b : Bool) (s : State) : (assertBusyIf b s).writeEnabled = s.writeEnabled := rfl
@[simp] theorem assertBusyIf_selectedHead (b : Bool) (s : State) : (assertBusyIf b s).selectedHead = s.selectedHead := rfl
@[simp] theorem assertBusyIf_currentCylinderHigh (b : Bool) (s : State) : (assertBusyIf b s).currentCylinderHigh = s.currentCylinderHigh := rfl
@[simp] theorem assertBusyIf_currentCylinderLow (b : Bool) (s : State) : (assertBusyIf b s).currentCylinderLow = s.currentCylinderLow := rfl
@[simp] theorem assertBusyIf_loadCylinderHigh (b : Bool) (s : State) : (assertBusyIf b s).loadCylinderHigh = s.loadCylinderHigh := rfl
@[simp] theorem assertBusyIf_loadCylinderLow (b : Bool) (s : State) : (assertBusyIf b s).loadCylinderLow = s.loadCylinderLow := rfl
@[simp] theorem assertBusyIf_testByte (b : Bool) (s : State) : (assertBusyIf b s).testByte = s.testByte := rfl
@[simp] theorem assertBusyIf_attributeNumber (b : Bool) (s : State) : (assertBusyIf b s).attributeNumber = s.attributeNumber := rfl
@[simp] theorem assertBusyIf_attributes (b : Bool) (s : State) : (assertBusyIf b s).attributes = s.attributes := rfl
@[simp] theorem assertBusyIf_attributesInitialized (b : Bool) (s : State) : (assertBusyIf b s).attributesInitialized = s.attributesInitialized := rfl
@[simp] theorem assertBusyIf_schedActive (b : Bool) (s : State) : (assertBusyIf b s).schedActive = s.schedActive := rfl
@[simp] theorem assertBusyIf_schedDuration (b : Bool) (s : State) : (assertBusyIf b s).schedDuration = s.schedDuration := rfl
@[simp] theorem assertBusyIf_schedElapsed (b : Bool) (s : State) : (assertBusyIf b s).schedElapsed = s.schedElapsed := rfl
@[simp] theorem assertBusyIf_schedAction (b : Bool) (s : State) : (assertBusyIf b s).schedAction = s.schedAction := rfl
@[simp] theorem assertBusyIf_ackOut (b : Bool) (s : State) : (assertBusyIf b s).ackOut = s.ackOut := rfl
@[simp] theorem assertBusyIf_busyOut (b : Bool) (s : State) : (assertBusyIf b s).busyOut = (s.busyOut || b) := rfl
@[simp] theorem assertBusyIf_busOut (b : Bool) (s : State) : (assertBusyIf b s).busOut = s.busOut := rfl
@[simp] theorem assertBusyIf_busDrive (b : Bool) (s : State) : (assertBusyIf b s).busDrive = s.busDrive := rfl
@[simp] theorem assertBusyIf_modelFaults (b : Bool) (s : State) : (assertBusyIf b s).modelFaults = s.modelFaults := rfl
@[simp] theorem assertBusyIf_refusalMark (b : Bool) (s : State) : (assertBusyIf b s).refusalMark = s.refusalMark := rfl

/-! `setDirection` -/

@[simp] theorem setDirection_config (smp : Sample) (s : State) : (setDirection smp s).config = s.config := rfl
@[simp] theorem setDirection_inputs (smp : Sample) (s : State) : (setDirection smp s).inputs = s.inputs := rfl
@[simp] theorem setDirection_draws (smp : Sample) (s : State) : (setDirection smp s).draws = s.draws := rfl
@[simp] theorem setDirection_id (smp : Sample) (s : State) : (setDirection smp s).id = s.id := rfl
@[simp] theorem setDirection_protocolState (smp : Sample) (s : State) : (setDirection smp s).protocolState = s.protocolState := rfl
@[simp] theorem setDirection_previousPins (smp : Sample) (s : State) : (setDirection smp s).previousPins = s.previousPins := rfl
@[simp] theorem setDirection_cmd (smp : Sample) (s : State) : (setDirection smp s).cmd = s.cmd := rfl
@[simp] theorem setDirection_paramOut (smp : Sample) (s : State) : (setDirection smp s).paramOut = s.paramOut := rfl
@[simp] theorem setDirection_paramIn (smp : Sample) (s : State) : (setDirection smp s).paramIn = s.paramIn := rfl
@[simp] theorem setDirection_generalStatus (smp : Sample) (s : State) : (setDirection smp s).generalStatus = s.generalStatus := rfl
@[simp] theorem setDirection_senseByte1 (smp : Sample) (s : State) : (setDirection smp s).senseByte1 = s.senseByte1 := rfl
@[simp] theorem setDirection_senseByte2 (smp : Sample) (s : State) : (setDirection smp s).senseByte2 = s.senseByte2 := rfl
@[simp] theorem setDirection_attentionPending (smp : Sample) (s : State) : (setDirection smp s).attentionPending = s.attentionPending := rfl
@[simp] theorem setDirection_attentionEnabled (smp : Sample) (s : State) : (setDirection smp s).attentionEnabled = s.attentionEnabled := rfl
@[simp] theorem setDirection_writeEnabled (smp : Sample) (s : State) : (setDirection smp s).writeEnabled = s.writeEnabled := rfl
@[simp] theorem setDirection_selectedHead (smp : Sample) (s : State) : (setDirection smp s).selectedHead = s.selectedHead := rfl
@[simp] theorem setDirection_currentCylinderHigh (smp : Sample) (s : State) : (setDirection smp s).currentCylinderHigh = s.currentCylinderHigh := rfl
@[simp] theorem setDirection_currentCylinderLow (smp : Sample) (s : State) : (setDirection smp s).currentCylinderLow = s.currentCylinderLow := rfl
@[simp] theorem setDirection_loadCylinderHigh (smp : Sample) (s : State) : (setDirection smp s).loadCylinderHigh = s.loadCylinderHigh := rfl
@[simp] theorem setDirection_loadCylinderLow (smp : Sample) (s : State) : (setDirection smp s).loadCylinderLow = s.loadCylinderLow := rfl
@[simp] theorem setDirection_testByte (smp : Sample) (s : State) : (setDirection smp s).testByte = s.testByte := rfl
@[simp] theorem setDirection_attributeNumber (smp : Sample) (s : State) : (setDirection smp s).attributeNumber = s.attributeNumber := rfl
@[simp] theorem setDirection_attributes (smp : Sample) (s : State) : (setDirection smp s).attributes = s.attributes := rfl
@[simp] theorem setDirection_attributesInitialized (smp : Sample) (s : State) : (setDirection smp s).attributesInitialized = s.attributesInitialized := rfl
@[simp] theorem setDirection_schedActive (smp : Sample) (s : State) : (setDirection smp s).schedActive = s.schedActive := rfl
@[simp] theorem setDirection_schedDuration (smp : Sample) (s : State) : (setDirection smp s).schedDuration = s.schedDuration := rfl
@[simp] theorem setDirection_schedElapsed (smp : Sample) (s : State) : (setDirection smp s).schedElapsed = s.schedElapsed := rfl
@[simp] theorem setDirection_schedAction (smp : Sample) (s : State) : (setDirection smp s).schedAction = s.schedAction := rfl
@[simp] theorem setDirection_ackOut (smp : Sample) (s : State) : (setDirection smp s).ackOut = s.ackOut := rfl
@[simp] theorem setDirection_busyOut (smp : Sample) (s : State) : (setDirection smp s).busyOut = s.busyOut := rfl
@[simp] theorem setDirection_busOut (smp : Sample) (s : State) : (setDirection smp s).busOut = s.busOut := rfl
@[simp] theorem setDirection_busDrive (smp : Sample) (s : State) : (setDirection smp s).busDrive = (smp.dir == .d2h) := rfl
@[simp] theorem setDirection_modelFaults (smp : Sample) (s : State) : (setDirection smp s).modelFaults = s.modelFaults := rfl
@[simp] theorem setDirection_refusalMark (smp : Sample) (s : State) : (setDirection smp s).refusalMark = s.refusalMark := rfl

/-! `releaseAck` -/

@[simp] theorem releaseAck_config (smp : Sample) (s : State) : (releaseAck smp s).config = s.config := by unfold releaseAck; split <;> rfl
@[simp] theorem releaseAck_inputs (smp : Sample) (s : State) : (releaseAck smp s).inputs = s.inputs := by unfold releaseAck; split <;> rfl
@[simp] theorem releaseAck_draws (smp : Sample) (s : State) : (releaseAck smp s).draws = s.draws := by unfold releaseAck; split <;> rfl
@[simp] theorem releaseAck_id (smp : Sample) (s : State) : (releaseAck smp s).id = s.id := by unfold releaseAck; split <;> rfl
@[simp] theorem releaseAck_protocolState (smp : Sample) (s : State) : (releaseAck smp s).protocolState = s.protocolState := by unfold releaseAck; split <;> rfl
@[simp] theorem releaseAck_previousPins (smp : Sample) (s : State) : (releaseAck smp s).previousPins = s.previousPins := by unfold releaseAck; split <;> rfl
@[simp] theorem releaseAck_cmd (smp : Sample) (s : State) : (releaseAck smp s).cmd = s.cmd := by unfold releaseAck; split <;> rfl
@[simp] theorem releaseAck_paramOut (smp : Sample) (s : State) : (releaseAck smp s).paramOut = s.paramOut := by unfold releaseAck; split <;> rfl
@[simp] theorem releaseAck_paramIn (smp : Sample) (s : State) : (releaseAck smp s).paramIn = s.paramIn := by unfold releaseAck; split <;> rfl
@[simp] theorem releaseAck_generalStatus (smp : Sample) (s : State) : (releaseAck smp s).generalStatus = s.generalStatus := by unfold releaseAck; split <;> rfl
@[simp] theorem releaseAck_senseByte1 (smp : Sample) (s : State) : (releaseAck smp s).senseByte1 = s.senseByte1 := by unfold releaseAck; split <;> rfl
@[simp] theorem releaseAck_senseByte2 (smp : Sample) (s : State) : (releaseAck smp s).senseByte2 = s.senseByte2 := by unfold releaseAck; split <;> rfl
@[simp] theorem releaseAck_attentionPending (smp : Sample) (s : State) : (releaseAck smp s).attentionPending = s.attentionPending := by unfold releaseAck; split <;> rfl
@[simp] theorem releaseAck_attentionEnabled (smp : Sample) (s : State) : (releaseAck smp s).attentionEnabled = s.attentionEnabled := by unfold releaseAck; split <;> rfl
@[simp] theorem releaseAck_writeEnabled (smp : Sample) (s : State) : (releaseAck smp s).writeEnabled = s.writeEnabled := by unfold releaseAck; split <;> rfl
@[simp] theorem releaseAck_selectedHead (smp : Sample) (s : State) : (releaseAck smp s).selectedHead = s.selectedHead := by unfold releaseAck; split <;> rfl
@[simp] theorem releaseAck_currentCylinderHigh (smp : Sample) (s : State) : (releaseAck smp s).currentCylinderHigh = s.currentCylinderHigh := by unfold releaseAck; split <;> rfl
@[simp] theorem releaseAck_currentCylinderLow (smp : Sample) (s : State) : (releaseAck smp s).currentCylinderLow = s.currentCylinderLow := by unfold releaseAck; split <;> rfl
@[simp] theorem releaseAck_loadCylinderHigh (smp : Sample) (s : State) : (releaseAck smp s).loadCylinderHigh = s.loadCylinderHigh := by unfold releaseAck; split <;> rfl
@[simp] theorem releaseAck_loadCylinderLow (smp : Sample) (s : State) : (releaseAck smp s).loadCylinderLow = s.loadCylinderLow := by unfold releaseAck; split <;> rfl
@[simp] theorem releaseAck_testByte (smp : Sample) (s : State) : (releaseAck smp s).testByte = s.testByte := by unfold releaseAck; split <;> rfl
@[simp] theorem releaseAck_attributeNumber (smp : Sample) (s : State) : (releaseAck smp s).attributeNumber = s.attributeNumber := by unfold releaseAck; split <;> rfl
@[simp] theorem releaseAck_attributes (smp : Sample) (s : State) : (releaseAck smp s).attributes = s.attributes := by unfold releaseAck; split <;> rfl
@[simp] theorem releaseAck_attributesInitialized (smp : Sample) (s : State) : (releaseAck smp s).attributesInitialized = s.attributesInitialized := by unfold releaseAck; split <;> rfl
@[simp] theorem releaseAck_schedActive (smp : Sample) (s : State) : (releaseAck smp s).schedActive = s.schedActive := by unfold releaseAck; split <;> rfl
@[simp] theorem releaseAck_schedDuration (smp : Sample) (s : State) : (releaseAck smp s).schedDuration = s.schedDuration := by unfold releaseAck; split <;> rfl
@[simp] theorem releaseAck_schedElapsed (smp : Sample) (s : State) : (releaseAck smp s).schedElapsed = s.schedElapsed := by unfold releaseAck; split <;> rfl
@[simp] theorem releaseAck_schedAction (smp : Sample) (s : State) : (releaseAck smp s).schedAction = s.schedAction := by unfold releaseAck; split <;> rfl
@[simp] theorem releaseAck_ackOut (smp : Sample) (s : State) : (releaseAck smp s).ackOut = if !smp.sel && !smp.cmdReq && !smp.paramReq then false else s.ackOut := by unfold releaseAck; split <;> rfl
@[simp] theorem releaseAck_busyOut (smp : Sample) (s : State) : (releaseAck smp s).busyOut = s.busyOut := by unfold releaseAck; split <;> rfl
@[simp] theorem releaseAck_busOut (smp : Sample) (s : State) : (releaseAck smp s).busOut = s.busOut := by unfold releaseAck; split <;> rfl
@[simp] theorem releaseAck_busDrive (smp : Sample) (s : State) : (releaseAck smp s).busDrive = s.busDrive := by unfold releaseAck; split <;> rfl
@[simp] theorem releaseAck_modelFaults (smp : Sample) (s : State) : (releaseAck smp s).modelFaults = s.modelFaults := by unfold releaseAck; split <;> rfl
@[simp] theorem releaseAck_refusalMark (smp : Sample) (s : State) : (releaseAck smp s).refusalMark = s.refusalMark := by unfold releaseAck; split <;> rfl

/-! `protocolCheck` -/

@[simp] theorem protocolCheck_config (smp : Sample) (s : State) : (protocolCheck smp s).config = s.config := by unfold protocolCheck; split <;> simp
@[simp] theorem protocolCheck_inputs (smp : Sample) (s : State) : (protocolCheck smp s).inputs = s.inputs := by unfold protocolCheck; split <;> simp
@[simp] theorem protocolCheck_draws (smp : Sample) (s : State) : (protocolCheck smp s).draws = s.draws := by unfold protocolCheck; split <;> simp
@[simp] theorem protocolCheck_id (smp : Sample) (s : State) : (protocolCheck smp s).id = s.id := by unfold protocolCheck; split <;> simp
@[simp] theorem protocolCheck_protocolState (smp : Sample) (s : State) : (protocolCheck smp s).protocolState = s.protocolState := by unfold protocolCheck; split <;> simp
@[simp] theorem protocolCheck_previousPins (smp : Sample) (s : State) : (protocolCheck smp s).previousPins = s.previousPins := by unfold protocolCheck; split <;> simp
@[simp] theorem protocolCheck_cmd (smp : Sample) (s : State) : (protocolCheck smp s).cmd = s.cmd := by unfold protocolCheck; split <;> simp
@[simp] theorem protocolCheck_paramOut (smp : Sample) (s : State) : (protocolCheck smp s).paramOut = s.paramOut := by unfold protocolCheck; split <;> simp
@[simp] theorem protocolCheck_paramIn (smp : Sample) (s : State) : (protocolCheck smp s).paramIn = s.paramIn := by unfold protocolCheck; split <;> simp
@[simp] theorem protocolCheck_generalStatus (smp : Sample) (s : State) : (protocolCheck smp s).generalStatus = s.generalStatus := by unfold protocolCheck; split <;> simp
@[simp] theorem protocolCheck_senseByte1 (smp : Sample) (s : State) : (protocolCheck smp s).senseByte1 = s.senseByte1 := by unfold protocolCheck; split <;> simp
@[simp] theorem protocolCheck_senseByte2 (smp : Sample) (s : State) : (protocolCheck smp s).senseByte2 = s.senseByte2 := by unfold protocolCheck; split <;> simp
@[simp] theorem protocolCheck_attentionPending (smp : Sample) (s : State) : (protocolCheck smp s).attentionPending = s.attentionPending := by unfold protocolCheck; split <;> simp
@[simp] theorem protocolCheck_attentionEnabled (smp : Sample) (s : State) : (protocolCheck smp s).attentionEnabled = s.attentionEnabled := by unfold protocolCheck; split <;> simp
@[simp] theorem protocolCheck_writeEnabled (smp : Sample) (s : State) : (protocolCheck smp s).writeEnabled = s.writeEnabled := by unfold protocolCheck; split <;> simp
@[simp] theorem protocolCheck_selectedHead (smp : Sample) (s : State) : (protocolCheck smp s).selectedHead = s.selectedHead := by unfold protocolCheck; split <;> simp
@[simp] theorem protocolCheck_currentCylinderHigh (smp : Sample) (s : State) : (protocolCheck smp s).currentCylinderHigh = s.currentCylinderHigh := by unfold protocolCheck; split <;> simp
@[simp] theorem protocolCheck_currentCylinderLow (smp : Sample) (s : State) : (protocolCheck smp s).currentCylinderLow = s.currentCylinderLow := by unfold protocolCheck; split <;> simp
@[simp] theorem protocolCheck_loadCylinderHigh (smp : Sample) (s : State) : (protocolCheck smp s).loadCylinderHigh = s.loadCylinderHigh := by unfold protocolCheck; split <;> simp
@[simp] theorem protocolCheck_loadCylinderLow (smp : Sample) (s : State) : (protocolCheck smp s).loadCylinderLow = s.loadCylinderLow := by unfold protocolCheck; split <;> simp
@[simp] theorem protocolCheck_testByte (smp : Sample) (s : State) : (protocolCheck smp s).testByte = s.testByte := by unfold protocolCheck; split <;> simp
@[simp] theorem protocolCheck_attributeNumber (smp : Sample) (s : State) : (protocolCheck smp s).attributeNumber = s.attributeNumber := by unfold protocolCheck; split <;> simp
@[simp] theorem protocolCheck_attributes (smp : Sample) (s : State) : (protocolCheck smp s).attributes = s.attributes := by unfold protocolCheck; split <;> simp
@[simp] theorem protocolCheck_attributesInitialized (smp : Sample) (s : State) : (protocolCheck smp s).attributesInitialized = s.attributesInitialized := by unfold protocolCheck; split <;> simp
@[simp] theorem protocolCheck_schedActive (smp : Sample) (s : State) : (protocolCheck smp s).schedActive = s.schedActive := by unfold protocolCheck; split <;> simp
@[simp] theorem protocolCheck_schedDuration (smp : Sample) (s : State) : (protocolCheck smp s).schedDuration = s.schedDuration := by unfold protocolCheck; split <;> simp
@[simp] theorem protocolCheck_schedElapsed (smp : Sample) (s : State) : (protocolCheck smp s).schedElapsed = s.schedElapsed := by unfold protocolCheck; split <;> simp
@[simp] theorem protocolCheck_schedAction (smp : Sample) (s : State) : (protocolCheck smp s).schedAction = s.schedAction := by unfold protocolCheck; split <;> simp
@[simp] theorem protocolCheck_ackOut (smp : Sample) (s : State) : (protocolCheck smp s).ackOut = s.ackOut := by unfold protocolCheck; split <;> simp
@[simp] theorem protocolCheck_busyOut (smp : Sample) (s : State) : (protocolCheck smp s).busyOut = s.busyOut := by unfold protocolCheck; split <;> simp
@[simp] theorem protocolCheck_busOut (smp : Sample) (s : State) : (protocolCheck smp s).busOut = s.busOut := by unfold protocolCheck; split <;> simp
@[simp] theorem protocolCheck_busDrive (smp : Sample) (s : State) : (protocolCheck smp s).busDrive = s.busDrive := by unfold protocolCheck; split <;> simp
@[simp] theorem protocolCheck_modelFaults (smp : Sample) (s : State) : (protocolCheck smp s).modelFaults = if s.protocolState.isHandshake && (smp.readGate || smp.writeGate) then (recordFault .protocolViolation s).modelFaults else s.modelFaults := by unfold protocolCheck; split <;> rfl
@[simp] theorem protocolCheck_refusalMark (smp : Sample) (s : State) : (protocolCheck smp s).refusalMark = s.refusalMark := by unfold protocolCheck; split <;> simp

/-! `commonPhases` -/

@[simp] theorem commonPhases_config (smp : Sample) (dt : Time) (s : State) : (commonPhases smp dt s).config = s.config := by simp [commonPhases]
@[simp] theorem commonPhases_inputs (smp : Sample) (dt : Time) (s : State) : (commonPhases smp dt s).inputs = s.inputs := by simp [commonPhases]
@[simp] theorem commonPhases_draws (smp : Sample) (dt : Time) (s : State) : (commonPhases smp dt s).draws = s.draws := by simp [commonPhases]
@[simp] theorem commonPhases_id (smp : Sample) (dt : Time) (s : State) : (commonPhases smp dt s).id = s.id := by simp [commonPhases]
@[simp] theorem commonPhases_protocolState (smp : Sample) (dt : Time) (s : State) : (commonPhases smp dt s).protocolState = s.protocolState := by simp [commonPhases]
@[simp] theorem commonPhases_previousPins (smp : Sample) (dt : Time) (s : State) : (commonPhases smp dt s).previousPins = s.previousPins := by simp [commonPhases]
@[simp] theorem commonPhases_cmd (smp : Sample) (dt : Time) (s : State) : (commonPhases smp dt s).cmd = s.cmd := by simp [commonPhases]
@[simp] theorem commonPhases_paramOut (smp : Sample) (dt : Time) (s : State) : (commonPhases smp dt s).paramOut = s.paramOut := by simp [commonPhases]
@[simp] theorem commonPhases_paramIn (smp : Sample) (dt : Time) (s : State) : (commonPhases smp dt s).paramIn = s.paramIn := by simp [commonPhases]
@[simp] theorem commonPhases_generalStatus (smp : Sample) (dt : Time) (s : State) : (commonPhases smp dt s).generalStatus = s.generalStatus := by simp [commonPhases]
@[simp] theorem commonPhases_senseByte1 (smp : Sample) (dt : Time) (s : State) : (commonPhases smp dt s).senseByte1 = s.senseByte1 := by simp [commonPhases]
@[simp] theorem commonPhases_senseByte2 (smp : Sample) (dt : Time) (s : State) : (commonPhases smp dt s).senseByte2 = s.senseByte2 := by simp [commonPhases]
@[simp] theorem commonPhases_attentionPending (smp : Sample) (dt : Time) (s : State) : (commonPhases smp dt s).attentionPending = s.attentionPending := by simp [commonPhases]
@[simp] theorem commonPhases_attentionEnabled (smp : Sample) (dt : Time) (s : State) : (commonPhases smp dt s).attentionEnabled = s.attentionEnabled := by simp [commonPhases]
@[simp] theorem commonPhases_writeEnabled (smp : Sample) (dt : Time) (s : State) : (commonPhases smp dt s).writeEnabled = s.writeEnabled := by simp [commonPhases]
@[simp] theorem commonPhases_selectedHead (smp : Sample) (dt : Time) (s : State) : (commonPhases smp dt s).selectedHead = s.selectedHead := by simp [commonPhases]
@[simp] theorem commonPhases_currentCylinderHigh (smp : Sample) (dt : Time) (s : State) : (commonPhases smp dt s).currentCylinderHigh = s.currentCylinderHigh := by simp [commonPhases]
@[simp] theorem commonPhases_currentCylinderLow (smp : Sample) (dt : Time) (s : State) : (commonPhases smp dt s).currentCylinderLow = s.currentCylinderLow := by simp [commonPhases]
@[simp] theorem commonPhases_loadCylinderHigh (smp : Sample) (dt : Time) (s : State) : (commonPhases smp dt s).loadCylinderHigh = s.loadCylinderHigh := by simp [commonPhases]
@[simp] theorem commonPhases_loadCylinderLow (smp : Sample) (dt : Time) (s : State) : (commonPhases smp dt s).loadCylinderLow = s.loadCylinderLow := by simp [commonPhases]
@[simp] theorem commonPhases_testByte (smp : Sample) (dt : Time) (s : State) : (commonPhases smp dt s).testByte = s.testByte := by simp [commonPhases]
@[simp] theorem commonPhases_attributeNumber (smp : Sample) (dt : Time) (s : State) : (commonPhases smp dt s).attributeNumber = s.attributeNumber := by simp [commonPhases]
@[simp] theorem commonPhases_attributes (smp : Sample) (dt : Time) (s : State) : (commonPhases smp dt s).attributes = s.attributes := by simp [commonPhases]
@[simp] theorem commonPhases_attributesInitialized (smp : Sample) (dt : Time) (s : State) : (commonPhases smp dt s).attributesInitialized = s.attributesInitialized := by simp [commonPhases]
@[simp] theorem commonPhases_schedActive (smp : Sample) (dt : Time) (s : State) : (commonPhases smp dt s).schedActive = s.schedActive := by simp [commonPhases]
@[simp] theorem commonPhases_schedDuration (smp : Sample) (dt : Time) (s : State) : (commonPhases smp dt s).schedDuration = s.schedDuration := by simp [commonPhases]
@[simp] theorem commonPhases_schedElapsed (smp : Sample) (dt : Time) (s : State) : (commonPhases smp dt s).schedElapsed = if s.schedActive then sat32Add s.schedElapsed dt else s.schedElapsed := by simp [commonPhases]
@[simp] theorem commonPhases_schedAction (smp : Sample) (dt : Time) (s : State) : (commonPhases smp dt s).schedAction = s.schedAction := by simp [commonPhases]
@[simp] theorem commonPhases_ackOut (smp : Sample) (dt : Time) (s : State) : (commonPhases smp dt s).ackOut = if !smp.sel && !smp.cmdReq && !smp.paramReq then false else s.ackOut := by simp [commonPhases]
@[simp] theorem commonPhases_busyOut (smp : Sample) (dt : Time) (s : State) : (commonPhases smp dt s).busyOut = s.busyOut := by simp [commonPhases]
@[simp] theorem commonPhases_busOut (smp : Sample) (dt : Time) (s : State) : (commonPhases smp dt s).busOut = s.busOut := by simp [commonPhases]
@[simp] theorem commonPhases_busDrive (smp : Sample) (dt : Time) (s : State) : (commonPhases smp dt s).busDrive = (smp.dir == .d2h) := by simp [commonPhases]
@[simp] theorem commonPhases_refusalMark (smp : Sample) (dt : Time) (s : State) : (commonPhases smp dt s).refusalMark = s.refusalMark := by simp [commonPhases]

/-! `reinit` -/

@[simp] theorem reinit_config (s : State) : (reinit s).config = s.config := rfl
@[simp] theorem reinit_inputs (s : State) : (reinit s).inputs = s.inputs := rfl
@[simp] theorem reinit_draws (s : State) : (reinit s).draws = s.draws := rfl
@[simp] theorem reinit_id (s : State) : (reinit s).id = s.id := rfl
@[simp] theorem reinit_protocolState (s : State) : (reinit s).protocolState = s.protocolState := rfl
@[simp] theorem reinit_previousPins (s : State) : (reinit s).previousPins = (State.boot s.config).previousPins := rfl
@[simp] theorem reinit_cmd (s : State) : (reinit s).cmd = (State.boot s.config).cmd := rfl
@[simp] theorem reinit_paramOut (s : State) : (reinit s).paramOut = (State.boot s.config).paramOut := rfl
@[simp] theorem reinit_paramIn (s : State) : (reinit s).paramIn = (State.boot s.config).paramIn := rfl
@[simp] theorem reinit_generalStatus (s : State) : (reinit s).generalStatus = (State.boot s.config).generalStatus := rfl
@[simp] theorem reinit_senseByte1 (s : State) : (reinit s).senseByte1 = (State.boot s.config).senseByte1 := rfl
@[simp] theorem reinit_senseByte2 (s : State) : (reinit s).senseByte2 = (State.boot s.config).senseByte2 := rfl
@[simp] theorem reinit_attentionPending (s : State) : (reinit s).attentionPending = (State.boot s.config).attentionPending := rfl
@[simp] theorem reinit_attentionEnabled (s : State) : (reinit s).attentionEnabled = (State.boot s.config).attentionEnabled := rfl
@[simp] theorem reinit_writeEnabled (s : State) : (reinit s).writeEnabled = (State.boot s.config).writeEnabled := rfl
@[simp] theorem reinit_selectedHead (s : State) : (reinit s).selectedHead = (State.boot s.config).selectedHead := rfl
@[simp] theorem reinit_currentCylinderHigh (s : State) : (reinit s).currentCylinderHigh = (State.boot s.config).currentCylinderHigh := rfl
@[simp] theorem reinit_currentCylinderLow (s : State) : (reinit s).currentCylinderLow = (State.boot s.config).currentCylinderLow := rfl
@[simp] theorem reinit_loadCylinderHigh (s : State) : (reinit s).loadCylinderHigh = (State.boot s.config).loadCylinderHigh := rfl
@[simp] theorem reinit_loadCylinderLow (s : State) : (reinit s).loadCylinderLow = (State.boot s.config).loadCylinderLow := rfl
@[simp] theorem reinit_testByte (s : State) : (reinit s).testByte = (State.boot s.config).testByte := rfl
@[simp] theorem reinit_attributeNumber (s : State) : (reinit s).attributeNumber = (State.boot s.config).attributeNumber := rfl
@[simp] theorem reinit_attributes (s : State) : (reinit s).attributes = (State.boot s.config).attributes := rfl
@[simp] theorem reinit_attributesInitialized (s : State) : (reinit s).attributesInitialized = (State.boot s.config).attributesInitialized := rfl
@[simp] theorem reinit_schedActive (s : State) : (reinit s).schedActive = (State.boot s.config).schedActive := rfl
@[simp] theorem reinit_schedDuration (s : State) : (reinit s).schedDuration = (State.boot s.config).schedDuration := rfl
@[simp] theorem reinit_schedElapsed (s : State) : (reinit s).schedElapsed = (State.boot s.config).schedElapsed := rfl
@[simp] theorem reinit_schedAction (s : State) : (reinit s).schedAction = (State.boot s.config).schedAction := rfl
@[simp] theorem reinit_ackOut (s : State) : (reinit s).ackOut = (State.boot s.config).ackOut := rfl
@[simp] theorem reinit_busyOut (s : State) : (reinit s).busyOut = (State.boot s.config).busyOut := rfl
@[simp] theorem reinit_busOut (s : State) : (reinit s).busOut = (State.boot s.config).busOut := rfl
@[simp] theorem reinit_busDrive (s : State) : (reinit s).busDrive = s.busDrive := rfl
@[simp] theorem reinit_modelFaults (s : State) : (reinit s).modelFaults = s.modelFaults := rfl
@[simp] theorem reinit_refusalMark (s : State) : (reinit s).refusalMark = s.refusalMark := rfl

/-- The fault set after recording a reason: the reason is in it, nothing is lost, nothing else comes in. -/
theorem mem_recordFault (r q : Fault) (s : State) :
    q ∈ (recordFault r s).modelFaults ↔ q = r ∨ q ∈ s.modelFaults := by
  cases r; cases q
  unfold recordFault; split <;> simp_all

/-- Recording a reason keeps the fault set without repeats. -/
theorem recordFault_nodup (r : Fault) (s : State) (h : s.modelFaults.Nodup) :
    (recordFault r s).modelFaults.Nodup := by
  unfold recordFault; split
  · exact h
  · simp_all [List.nodup_append]

/-- The fault set after the common phases (R104): the violation is recorded exactly in a handshake state with a gate up. -/
@[simp] theorem commonPhases_modelFaults (smp : Sample) (dt : Time) (s : State) :
    (commonPhases smp dt s).modelFaults =
      if s.protocolState.isHandshake && (smp.readGate || smp.writeGate) then
        (recordFault .protocolViolation s).modelFaults
      else s.modelFaults := by
  simp only [commonPhases, protocolCheck_modelFaults, schedAdvance_protocolState, releaseAck_protocolState,
    setDirection_protocolState, schedAdvance_modelFaults, releaseAck_modelFaults, setDirection_modelFaults]
  congr 1
  unfold recordFault
  simp only [schedAdvance_modelFaults, releaseAck_modelFaults, setDirection_modelFaults]
  split <;> simp

end Sys2Proof.Machine
end

