-- ==== Sys2Proof/Laws/Ops.lean ====
section
/-! SUPPORT. One lemma per shared operation that says what it does: bits, operands, the attribute table, errors, sense
bytes, the Scheduler. Provers cite these instead of unfolding. -/

namespace Sys2Proof.Machine

/-! ### Bits of a status byte -/

@[simp] theorem getLsbD_setBits (v m : Byte) (i : Nat) : (setBits v m).getLsbD i = (v.getLsbD i || m.getLsbD i) := by
  simp [setBits]

@[simp] theorem getLsbD_clearBits (v m : Byte) (i : Nat) :
    (clearBits v m).getLsbD i = (v.getLsbD i && !m.getLsbD i) := by
  by_cases h : i < 8
  · simp [clearBits, h]
  · simp [clearBits, BitVec.getLsbD_of_ge v i (by omega)]

@[simp] theorem getLsbD_writeFlag (v m : Byte) (b : Bool) (i : Nat) :
    (writeFlag v m b).getLsbD i = (if m.getLsbD i then b else v.getLsbD i) := by
  cases b <;> simp [writeFlag] <;> cases m.getLsbD i <;> simp

@[simp] theorem getElem_setBits (v m : Byte) (i : Nat) (h : i < 8) : (setBits v m)[i] = (v[i] || m[i]) := by
  simp [setBits]

@[simp] theorem getElem_clearBits (v m : Byte) (i : Nat) (h : i < 8) : (clearBits v m)[i] = (v[i] && !m[i]) := by
  simp [clearBits]

@[simp] theorem getElem_writeFlag (v m : Byte) (b : Bool) (i : Nat) (h : i < 8) :
    (writeFlag v m b)[i] = (if m[i] then b else v[i]) := by
  cases b <;> simp [writeFlag] <;> cases m[i] <;> simp

@[simp] theorem respondStatus_busyBit (s : State) : (respondStatus s).busyBit = s.busyBit := rfl
@[simp] theorem respond_busyBit (v : Byte) (s : State) : (respond v s).busyBit = s.busyBit := rfl

/-! ### Operands -/

/-- `{hi, lo}` is `hi * 256 + lo` (R63). -/
theorem cylinderNumber_toNat (hi lo : Byte) : (cylinderNumber hi lo).toNat = hi.toNat * 256 + lo.toNat := by
  simp only [cylinderNumber, BitVec.toNat_append]
  rw [Nat.shiftLeft_eq, Nat.mul_comm hi.toNat]
  exact (Nat.two_pow_add_eq_or_of_lt lo.isLt hi.toNat).symm

/-- The ranges of the geometry parameters (R5). -/
theorem Geometry_ranges (g : Geometry) :
    (1 ≤ g.cylinders ∧ g.cylinders ≤ 65536) ∧ 1 ≤ g.heads ∧ g.heads ≤ 256 := by
  unfold Geometry.cylinders Geometry.heads
  omega

/-- The radial byte selects its own device and no other (R89, R114). -/
theorem selectedBy_radialByte (id id' : DeviceId) : selectedBy (radialByte id) id' = decide (id = id') := by
  revert id id'; decide

/-! ### The attribute table -/

/-- The initialization is idempotent (R62: it runs exactly once). -/
@[simp] theorem attrEnsureInit_idem (s : State) : attrEnsureInit (attrEnsureInit s) = attrEnsureInit s := by
  change (if (attrEnsureInit s).attributesInitialized then attrEnsureInit s else _) = attrEnsureInit s
  rw [if_pos (attrEnsureInit_attributesInitialized s)]

/-- The initialization keeps the canonical form. -/
theorem attrEnsureInit_wf {s : State} (h : s.attributes.wf) : (attrEnsureInit s).attributes.wf := by
  rw [attrEnsureInit_attributes]
  split
  · exact h
  · exact Memory.ofTable_wf _

/-- What the table reads after the initialization (R62). -/
theorem attrEnsureInit_read (s : State) (i : Fin attributeTableSize) :
    (attrEnsureInit s).attributes.read i.val =
      if s.attributesInitialized then s.attributes.read i.val else Config.attrInit s.config.geometry i := by
  rw [attrEnsureInit_attributes]
  split
  · rfl
  · exact Memory.read_ofTable _ i

/-- A table write keeps the canonical form. -/
theorem memWrite_wf {s : State} (i : Fin attributeTableSize) (v : Byte) (h : s.attributes.wf) :
    (memWrite i v s).attributes.wf :=
  Memory.write_wf i.isLt (attrEnsureInit_wf h)

/-- What the table reads after a write: the written index the value, every other index what it read (R61, R62). -/
theorem memWrite_read {s : State} (i : Fin attributeTableSize) (v : Byte) (h : s.attributes.wf) (j : Nat) :
    (memWrite i v s).attributes.read j = if i.val = j then v else (attrEnsureInit s).attributes.read j :=
  Memory.read_write _ (attrEnsureInit_wf h) _ _ _

/-! ### Sense bytes -/

@[simp] theorem senseByte_writeSenseByte_same (n : SenseByte) (v : Byte) (s : State) :
    senseByte n (writeSenseByte n v s) = v := by
  cases n <;> rfl

/-- What `SetSense` leaves in the sense byte it names (R224). -/
@[simp] theorem senseByte_setSense_same (n : SenseByte) (m : Byte) (s : State) :
    senseByte n (setSense n m s) = setBits (senseByte n s) m := by
  cases n <;> rfl

/-- `SetSense` leaves the other sense byte. -/
theorem senseByte_setSense_other {n k : SenseByte} (h : k ≠ n) (m : Byte) (s : State) :
    senseByte k (setSense n m s) = senseByte k s := by
  cases n <;> cases k <;> first | exact absurd rfl h | rfl

/-- What `ClearSense` leaves in the sense byte it names (R225). -/
@[simp] theorem senseByte_clearSense_same (n : SenseByte) (m : Byte) (s : State) :
    senseByte n (clearSense n m s) = clearBits (senseByte n s) m := by
  cases n <;> rfl

/-- `ClearSense` leaves the other sense byte. -/
theorem senseByte_clearSense_other {n k : SenseByte} (h : k ≠ n) (m : Byte) (s : State) :
    senseByte k (clearSense n m s) = senseByte k s := by
  cases n <;> cases k <;> first | exact absurd rfl h | rfl

/-- The status after `SetSense` (R226). -/
theorem setSense_generalStatus (n : SenseByte) (m : Byte) (s : State) :
    (setSense n m s).generalStatus =
      writeFlag s.generalStatus (summaryMask n) (setBits (senseByte n s) m != 0) := by
  cases n <;> rfl

/-- The status after `ClearSense` (R226). -/
theorem clearSense_generalStatus (n : SenseByte) (m : Byte) (s : State) :
    (clearSense n m s).generalStatus =
      writeFlag s.generalStatus (summaryMask n) (clearBits (senseByte n s) m != 0) := by
  cases n <;> rfl

/-! ### Scheduler -/

/-- The saturating add, as a number (R9). -/
theorem sat32Add_toNat (a b : Time) : (sat32Add a b).toNat = min (a.toNat + b.toNat) (2 ^ 32 - 1) := by
  simp only [sat32Add, BitVec.toNat_ofNat]
  exact Nat.mod_eq_of_lt (by omega)

/-- Everything a poll can answer (R203). -/
theorem schedPoll_cases (s : State) :
    (s.schedActive = false ∧ schedPoll s = (.complete, s)) ∨
      (s.schedActive = true ∧ s.schedElapsed.toNat < s.schedDuration.toNat ∧ schedPoll s = (.running, s)) ∨
      (s.schedActive = true ∧ s.schedDuration.toNat ≤ s.schedElapsed.toNat ∧
        schedPoll s = (.complete, schedComplete s)) := by
  unfold schedPoll
  cases h : s.schedActive
  · exact .inl ⟨rfl, by simp⟩
  · by_cases hlt : s.schedElapsed.toNat < s.schedDuration.toNat
    · exact .inr (.inl ⟨rfl, hlt, by simp [hlt]⟩)
    · exact .inr (.inr ⟨rfl, by omega, by simp [hlt]⟩)

end Sys2Proof.Machine
end

