-- ==== Sys2Proof/Laws/Cycle.lean ====
section
/-! SUPPORT. What a cycle and a step can do, said once (40_bus_state_machine.md R100, R123). -/

namespace Sys2Proof.Machine

/-- A cycle that goes on: its state rule ran after the common phases, and the snapshot was kept. -/
theorem cycle_next {smp : Sample} {dt : Time} {s t : State} (h : cycle smp dt s = .next t) :
    ∃ u, stateRule smp (commonPhases smp dt s) = .next u ∧ t = { u with previousPins := smp } := by
  unfold cycle at h
  split at h
  · rename_i u hu
    exact ⟨u, hu, by simpa using h.symm⟩
  · cases h
  · cases h

/-- A step that goes on: the configuration is admissible, and the input taken was a cycle or a sense event. -/
theorem step_next {s t : State} (h : step s = .next t) :
    s.config.admissible = true ∧
      ((∃ smp dt, (takeInput s).1 = .cycle smp dt ∧ cycle smp dt (takeInput s).2 = .next t) ∨
        ∃ n m, (takeInput s).1 = .sense n m ∧ t = setSense n m (takeInput s).2) := by
  unfold step pollStep at h
  split at h
  · rename_i ha
    refine ⟨ha, ?_⟩
    unfold applyInput at h
    split at h
    · rename_i smp dt hi
      exact .inl ⟨smp, dt, hi, h⟩
    · rename_i n m hi
      exact .inr ⟨n, m, hi, by simpa using h.symm⟩
  · cases h

/-- Taking an input changes only the list of inputs and the count of draws. -/
theorem takeInput_state (s : State) :
    ∃ l n, (takeInput s).2 = { s with inputs := l, draws := n } := by
  unfold takeInput
  split
  · exact ⟨_, _, rfl⟩
  · exact ⟨_, _, rfl⟩

/-- A listed input is the one taken. -/
theorem takeInput_of_listed {s : State} {i : Input} {rest : List Input} (h : s.inputs = i :: rest) :
    takeInput s = (i, { s with inputs := rest }) := by
  unfold takeInput
  rw [h]

/-- Everything DISCONNECTED can do (R106). -/
theorem ruleDisconnected_cases (smp : Sample) (s : State) :
    (smp.enable = true ∧ ruleDisconnected smp s = .next { s with protocolState := .connected }) ∨
      (smp.enable = false ∧ ruleDisconnected smp s = .next s) := by
  unfold ruleDisconnected
  cases h : smp.enable <;> simp

/-- Everything CONNECTED can do (R107, R108). -/
theorem ruleConnected_cases (smp : Sample) (s : State) :
    (smp.enable = false ∧ ruleConnected smp s = .next { reinit s with protocolState := .disconnected }) ∨
      (smp.enable = true ∧ smp.sel = true ∧ smp.dir = .h2d ∧ selectedBy smp.bus s.id = true ∧
        ruleConnected smp s = .next { s with ackOut := true, protocolState := .selected }) ∨
      (smp.enable = true ∧ ¬(smp.sel = true ∧ smp.dir = .h2d ∧ selectedBy smp.bus s.id = true) ∧
        ruleConnected smp s = .next s) := by
  unfold ruleConnected
  cases h1 : smp.enable <;> cases h2 : smp.sel <;> cases h3 : smp.dir <;>
    cases h4 : selectedBy smp.bus s.id <;> simp

/-- Everything SELECTED can do (R109 to R115). -/
theorem ruleSelected_cases (smp : Sample) (s : State) :
    (smp.dir = .h2d ∧ smp.cmdReq = true ∧ ruleSelected smp s = .next { s with protocolState := .readCommand }) ∨
      (¬(smp.dir = .h2d ∧ smp.cmdReq = true) ∧ smp.readGate = true ∧
        ruleSelected smp s = .next { s with protocolState := .reading }) ∨
      (¬(smp.dir = .h2d ∧ smp.cmdReq = true) ∧ smp.readGate = false ∧ smp.writeGate = true ∧
        ruleSelected smp s = .next { s with protocolState := .writing }) ∨
      (smp.cmdReq = false ∧ smp.readGate = false ∧ smp.writeGate = false ∧ smp.sel = true ∧ smp.dir = .h2d ∧
        selectedBy smp.bus s.id = true ∧ ruleSelected smp s = .next { s with ackOut := true }) ∨
      (smp.cmdReq = false ∧ smp.readGate = false ∧ smp.writeGate = false ∧ smp.sel = true ∧ smp.dir = .h2d ∧
        selectedBy smp.bus s.id = false ∧ ruleSelected smp s = .next { s with protocolState := .connected }) ∨
      (smp.readGate = false ∧ smp.writeGate = false ∧ smp.sel = true ∧ smp.dir = .d2h ∧
        ruleSelected smp s = .next { s with busOut := radialByte s.id }) ∨
      (¬(smp.dir = .h2d ∧ smp.cmdReq = true) ∧ smp.readGate = false ∧ smp.writeGate = false ∧ smp.sel = false ∧
        ruleSelected smp s = .next s) := by
  unfold ruleSelected
  cases h1 : smp.dir <;> cases h2 : smp.cmdReq <;> cases h3 : smp.readGate <;> cases h4 : smp.writeGate <;>
    cases h5 : smp.sel <;> cases h6 : selectedBy smp.bus s.id <;> simp

/-- Everything AWAITING_TIME_DEPENDENT_COMMAND can do (R119, R203). -/
theorem ruleAwaitingTimeDependentCommand_cases (s : State) :
    (s.schedActive = true ∧ s.schedElapsed.toNat < s.schedDuration.toNat ∧
        ruleAwaitingTimeDependentCommand s = .next s) ∨
      (s.schedActive = true ∧ s.schedDuration.toNat ≤ s.schedElapsed.toNat ∧
        ruleAwaitingTimeDependentCommand s =
          .next { schedComplete s with busyOut := false, attentionPending := true, protocolState := .selected }) ∨
      (s.schedActive = false ∧
        ruleAwaitingTimeDependentCommand s =
          .next { s with busyOut := false, attentionPending := true, protocolState := .selected }) := by
  unfold ruleAwaitingTimeDependentCommand
  rcases schedPoll_cases s with ⟨h1, h2⟩ | ⟨h1, h3, h2⟩ | ⟨h1, h3, h2⟩
  · exact .inr (.inr ⟨h1, by rw [h2]⟩)
  · exact .inl ⟨h1, h3, by rw [h2]⟩
  · exact .inr (.inl ⟨h1, h3, by rw [h2]⟩)

/-- A state rule that goes on gives the cycle. -/
theorem cycle_of_stateRule {smp : Sample} {dt : Time} {s u : State}
    (h : stateRule smp (commonPhases smp dt s) = .next u) :
    cycle smp dt s = .next { u with previousPins := smp } := by
  unfold cycle
  rw [h]

/-- Everything a state rule that goes on can do: which state it ran in, and what it left. -/
theorem stateRule_cases {smp : Sample} {s t : State} (h : stateRule smp s = .next t) :
    (s.protocolState = .disconnected ∧ ruleDisconnected smp s = .next t) ∨
      (s.protocolState = .connected ∧ ruleConnected smp s = .next t) ∨
      (s.protocolState = .selected ∧ ruleSelected smp s = .next t) ∨
      (s.protocolState = .readCommand ∧ t = { s with
        cmd := smp.bus
        ackOut := true
        protocolState := if commandIsParamOut smp.bus then .awaitingParamOut else .executeCommand }) ∨
      (s.protocolState = .awaitingParamOut ∧
        ((smp.dir = .h2d ∧ smp.paramReq = true ∧
            t = { s with paramOut := smp.bus, ackOut := true, protocolState := .executeCommand }) ∨
          (¬(smp.dir = .h2d ∧ smp.paramReq = true) ∧ t = s))) ∨
      (s.protocolState = .executeCommand ∧
        ∃ u, exec (decode s.config.codes s.cmd)
            (assertBusyIf (commandIsTimeDependent s.config.codes s.cmd) s) = .next u ∧
          t = { u with protocolState := afterExecute s.config.codes s.cmd }) ∨
      (s.protocolState = .awaitingParamIn ∧
        ((smp.dir = .d2h ∧ smp.paramReq = true ∧ t = { s with
            busOut := s.paramIn
            ackOut := true
            protocolState :=
              if commandIsTimeDependent s.config.codes s.cmd then .awaitingTimeDependentCommand else .selected }) ∨
          (¬(smp.dir = .d2h ∧ smp.paramReq = true) ∧ t = s))) ∨
      (s.protocolState = .awaitingTimeDependentCommand ∧ ruleAwaitingTimeDependentCommand s = .next t) := by
  unfold stateRule at h
  split at h
  · rename_i hp
    exact .inl ⟨hp, h⟩
  · rename_i hp
    exact .inr (.inl ⟨hp, h⟩)
  · rename_i hp
    exact .inr (.inr (.inl ⟨hp, h⟩))
  · rename_i hp
    cases h
    exact .inr (.inr (.inr (.inl ⟨hp, rfl⟩)))
  · rename_i hp
    refine .inr (.inr (.inr (.inr (.inl ⟨hp, ?_⟩))))
    unfold ruleAwaitingParamOut at h
    split at h
    · rename_i hc
      cases h
      simp only [Bool.and_eq_true, beq_iff_eq] at hc
      exact .inl ⟨hc.1, hc.2, rfl⟩
    · rename_i hc
      cases h
      simp only [Bool.and_eq_true, beq_iff_eq] at hc
      exact .inr ⟨hc, rfl⟩
  · rename_i hp
    refine .inr (.inr (.inr (.inr (.inr (.inl ⟨hp, ?_⟩)))))
    unfold ruleExecuteCommand at h
    split at h
    · rename_i u hu
      cases h
      exact ⟨u, hu, rfl⟩
    · cases h
    · cases h
  · rename_i hp
    refine .inr (.inr (.inr (.inr (.inr (.inr (.inl ⟨hp, ?_⟩))))))
    unfold ruleAwaitingParamIn at h
    split at h
    · rename_i hc
      cases h
      simp only [Bool.and_eq_true, beq_iff_eq] at hc
      exact .inl ⟨hc.1, hc.2, rfl⟩
    · rename_i hc
      cases h
      simp only [Bool.and_eq_true, beq_iff_eq] at hc
      exact .inr ⟨hc, rfl⟩
  · rename_i hp
    exact .inr (.inr (.inr (.inr (.inr (.inr (.inr ⟨hp, h⟩))))))
  · cases h
  · cases h

/-- A fetched word is the byte EXECUTE_COMMAND runs: what `withFetchWord` sets. -/
theorem withFetchWord_eq (s : State) (nbits w : Nat) :
    s.withFetchWord nbits w =
      { s with
        cmd := BitVec.ofNat 8 (w % 2 ^ nbits)
        protocolState := .executeCommand
        inputs := .cycle Sample.default 1 :: s.inputs } := rfl

end Sys2Proof.Machine
end

