-- ==== Sys2Proof/Laws/PerInstr.lean ====
section
/-! SUPPORT. The statements made per instruction. Family `ClassBit`: under an admissible code map, bit 7 of a command's code
is its class bit (30_encoding.md R81, R82, R84 constraint 2). -/

namespace Sys2Proof

/-- The class of a command in the table of R85; an unrecognized code is classed by its own bit 7. -/
def Instr.takesParameter : Instr → Bool

  | .loadCylAddrHigh => true
  | .loadCylAddrLow => true
  | .loadAttributeNumber => true
  | .loadAttribute => true
  | .loadTestByte => true
  | .selectHead => true
  | .attentionControl => true
  | .writeControl => true
  | .selectiveReset => true
  | .reformatTrack => true
  | .spinControl => true
  | .reportGeneralStatus => false
  | .reportSenseByte1 => false
  | .reportSenseByte2 => false
  | .reportCylAddrHigh => false
  | .reportCylAddrLow => false
  | .reportTestByte => false
  | .reportAttribute => false
  | .clearFault => false
  | .clearAttention => false
  | .seek => false
  | .rezero => false
  | .setAttention => false
  | .unrecognized c => !c.getLsbD 7

/-- The class bit of an encoded instruction is the class of the instruction. -/
def Laws.ClassBit.Statement (i : Instr) : Prop :=
  ∀ m : CodeMap, m.admissible = true → commandIsParamOut (encode m i) = i.takesParameter

/-- What R84 constraint 2 gives for each code of a parameter-out class command. -/
theorem CodeMap.admissible_paramOut {m : CodeMap} (h : m.admissible = true) {c : Byte} (hc : c ∈ m.paramOutCodes) :
    commandIsParamOut c = true := by
  simp only [CodeMap.admissible, CodeMap.classBitsAgree, Bool.and_eq_true, List.all_eq_true] at h
  exact h.1.2.1 c hc

/-- What R84 constraint 2 gives for each code of a response class command. -/
theorem CodeMap.admissible_response {m : CodeMap} (h : m.admissible = true) {c : Byte} (hc : c ∈ m.responseCodes) :
    commandIsParamOut c = false := by
  simp only [CodeMap.admissible, CodeMap.classBitsAgree, Bool.and_eq_true, List.all_eq_true] at h
  simp only [commandIsParamOut, h.1.2.2 c hc, Bool.not_true]

theorem Laws.ClassBit.loadCylAddrHigh : Laws.ClassBit.Statement .loadCylAddrHigh :=
  fun m h => CodeMap.admissible_paramOut h (by simp [CodeMap.paramOutCodes, encode])

theorem Laws.ClassBit.loadCylAddrLow : Laws.ClassBit.Statement .loadCylAddrLow :=
  fun m h => CodeMap.admissible_paramOut h (by simp [CodeMap.paramOutCodes, encode])

theorem Laws.ClassBit.loadAttributeNumber : Laws.ClassBit.Statement .loadAttributeNumber :=
  fun m h => CodeMap.admissible_paramOut h (by simp [CodeMap.paramOutCodes, encode])

theorem Laws.ClassBit.loadAttribute : Laws.ClassBit.Statement .loadAttribute :=
  fun m h => CodeMap.admissible_paramOut h (by simp [CodeMap.paramOutCodes, encode])

theorem Laws.ClassBit.loadTestByte : Laws.ClassBit.Statement .loadTestByte :=
  fun m h => CodeMap.admissible_paramOut h (by simp [CodeMap.paramOutCodes, encode])

theorem Laws.ClassBit.selectHead : Laws.ClassBit.Statement .selectHead :=
  fun m h => CodeMap.admissible_paramOut h (by simp [CodeMap.paramOutCodes, encode])

theorem Laws.ClassBit.attentionControl : Laws.ClassBit.Statement .attentionControl :=
  fun m h => CodeMap.admissible_paramOut h (by simp [CodeMap.paramOutCodes, encode])

theorem Laws.ClassBit.writeControl : Laws.ClassBit.Statement .writeControl :=
  fun m h => CodeMap.admissible_paramOut h (by simp [CodeMap.paramOutCodes, encode])

theorem Laws.ClassBit.selectiveReset : Laws.ClassBit.Statement .selectiveReset :=
  fun m h => CodeMap.admissible_paramOut h (by simp [CodeMap.paramOutCodes, encode])

theorem Laws.ClassBit.reformatTrack : Laws.ClassBit.Statement .reformatTrack :=
  fun m h => CodeMap.admissible_paramOut h (by simp [CodeMap.paramOutCodes, encode])

theorem Laws.ClassBit.spinControl : Laws.ClassBit.Statement .spinControl :=
  fun m h => CodeMap.admissible_paramOut h (by simp [CodeMap.paramOutCodes, encode])

theorem Laws.ClassBit.reportGeneralStatus : Laws.ClassBit.Statement .reportGeneralStatus :=
  fun m h => CodeMap.admissible_response h (by simp [CodeMap.responseCodes, encode])

theorem Laws.ClassBit.reportSenseByte1 : Laws.ClassBit.Statement .reportSenseByte1 :=
  fun m h => CodeMap.admissible_response h (by simp [CodeMap.responseCodes, encode])

theorem Laws.ClassBit.reportSenseByte2 : Laws.ClassBit.Statement .reportSenseByte2 :=
  fun m h => CodeMap.admissible_response h (by simp [CodeMap.responseCodes, encode])

theorem Laws.ClassBit.reportCylAddrHigh : Laws.ClassBit.Statement .reportCylAddrHigh :=
  fun m h => CodeMap.admissible_response h (by simp [CodeMap.responseCodes, encode])

theorem Laws.ClassBit.reportCylAddrLow : Laws.ClassBit.Statement .reportCylAddrLow :=
  fun m h => CodeMap.admissible_response h (by simp [CodeMap.responseCodes, encode])

theorem Laws.ClassBit.reportTestByte : Laws.ClassBit.Statement .reportTestByte :=
  fun m h => CodeMap.admissible_response h (by simp [CodeMap.responseCodes, encode])

theorem Laws.ClassBit.reportAttribute : Laws.ClassBit.Statement .reportAttribute :=
  fun m h => CodeMap.admissible_response h (by simp [CodeMap.responseCodes, encode])

theorem Laws.ClassBit.clearFault : Laws.ClassBit.Statement .clearFault :=
  fun m h => CodeMap.admissible_response h (by simp [CodeMap.responseCodes, encode])

theorem Laws.ClassBit.clearAttention : Laws.ClassBit.Statement .clearAttention :=
  fun m h => CodeMap.admissible_response h (by simp [CodeMap.responseCodes, encode])

theorem Laws.ClassBit.seek : Laws.ClassBit.Statement .seek :=
  fun m h => CodeMap.admissible_response h (by simp [CodeMap.responseCodes, encode])

theorem Laws.ClassBit.rezero : Laws.ClassBit.Statement .rezero :=
  fun m h => CodeMap.admissible_response h (by simp [CodeMap.responseCodes, encode])

theorem Laws.ClassBit.setAttention : Laws.ClassBit.Statement .setAttention :=
  fun m h => CodeMap.admissible_response h (by simp [CodeMap.responseCodes, encode])

theorem Laws.ClassBit.unrecognized (code : Byte) : Laws.ClassBit.Statement (.unrecognized code) := fun _ _ => rfl

end Sys2Proof
end

