-- ==== Sys2Proof/Laws/Run.lean ====
section
/-! SUPPORT. What a step of a run lets the host observe, said once (70_reset_and_hazards.md R275). -/

namespace Sys2Proof.Machine

/-- Everything one step can let the host observe: the outputs after a cycle that goes on, else nothing. -/
theorem observation_cases (s : State) :
    (∃ smp dt t, (takeInput s).1 = .cycle smp dt ∧ step s = .next t ∧ observation s = [outputs t]) ∨
      observation s = [] := by
  unfold observation
  split
  · rename_i t ht
    cases hi : (takeInput s).1 with
    | cycle smp dt => exact .inl ⟨smp, dt, t, rfl, ht, rfl⟩
    | sense n m => exact .inr rfl
  · exact .inr rfl
  · exact .inr rfl

/-- The tuples of a run are those of its parts, in order. -/
theorem observations_add (n m : Nat) (s : State) :
    observations (n + m) s = observations n s ++ observations m (run n s) := by
  induction n generalizing s with
  | zero => simp [observations, run]
  | succ n ih => rw [Nat.succ_add, observations, observations, ih, run, List.append_assoc]

/-- A run has at most one tuple per step. -/
theorem observations_length_le (n : Nat) (s : State) : (observations n s).length ≤ n := by
  induction n generalizing s with
  | zero => exact Nat.le_refl 0
  | succ n ih =>
    have h := ih (advance s)
    rw [observations, List.length_append]
    rcases observation_cases s with ⟨_, _, _, -, -, he⟩ | he <;> rw [he] <;> simp <;> omega

end Sys2Proof.Machine
end

