-- ==== Sys2Proof/Tests/Slice0.lean ====
section
/-! SUPPORT. The model's own tests. Expected values are those of 95_test_vectors.md (its id stands in each docstring), of
the code table of R85, or worked by hand from the rule named. The second half gives, for each obligation with hypotheses, a
concrete state and operands that meet them. -/

namespace Sys2Proof.Tests

open Sys2Proof Sys2Proof.Machine

/-- What holds of the next state; false where the outcome is not one. -/
def after (o : Host.Outcome State Fault Refusal) (p : State → Bool) : Bool :=
  match o with
  | .next t => p t
  | .fault _ => false
  | .refused _ => false

/-- The outcome is this refusal. -/
def refusedWith (o : Host.Outcome State Fault Refusal) (r : Refusal) : Bool :=
  match o with
  | .next _ => false
  | .fault _ => false
  | .refused q => q == r

/-- The reset state in another protocol state. -/
def at_ (p : ProtocolState) : State := { State.reset with protocolState := p }

/-- The reset state in EXECUTE_COMMAND with a latched code. -/
def executing (c : Byte) : State := { State.reset with protocolState := .executeCommand, cmd := c }

/-- The default sample (R94) with a bus byte. -/
def busSample (b : Byte) : Sample := { Sample.default with bus := b }

/-- A strobe with a mask. -/
def strobe (m : Byte) : Sample := { Sample.default with sel := true, bus := m }

/-! ### Decoding: each word written out bit by bit from R85 -/

/-- R85, codes 0x00 to 0x05: the parameter loads. -/
theorem test_decode_loads :
    decodeTableWord 8 0b00000000 = some .loadCylAddrHigh ∧ decodeTableWord 8 0b00000001 = some .loadCylAddrLow ∧
      decodeTableWord 8 0b00000010 = some .loadAttributeNumber ∧
      decodeTableWord 8 0b00000011 = some .loadAttribute ∧ decodeTableWord 8 0b00000100 = some .loadTestByte ∧
      decodeTableWord 8 0b00000101 = some .selectHead := by decide

/-- R85, codes 0x06 and 0x07: the mode toggles. -/
theorem test_decode_toggles :
    decodeTableWord 8 0b00000110 = some .attentionControl ∧ decodeTableWord 8 0b00000111 = some .writeControl := by
  decide

/-- R85, codes 0x08, 0x09, 0x0A and 0x8B: the placeholders. -/
theorem test_decode_placeholders :
    decodeTableWord 8 0b00001000 = some .selectiveReset ∧ decodeTableWord 8 0b00001001 = some .reformatTrack ∧
      decodeTableWord 8 0b00001010 = some .spinControl ∧ decodeTableWord 8 0b10001011 = some .setAttention := by
  decide

/-- R85, codes 0x80 to 0x86: the reports. -/
theorem test_decode_reports :
    decodeTableWord 8 0b10000000 = some .reportGeneralStatus ∧ decodeTableWord 8 0b10000001 = some .reportSenseByte1 ∧
      decodeTableWord 8 0b10000010 = some .reportSenseByte2 ∧
      decodeTableWord 8 0b10000011 = some .reportCylAddrHigh ∧ decodeTableWord 8 0b10000100 = some .reportCylAddrLow ∧
      decodeTableWord 8 0b10000101 = some .reportTestByte ∧ decodeTableWord 8 0b10000110 = some .reportAttribute := by
  decide

/-- R85, codes 0x87 to 0x8A: the clears and the positioning commands. -/
theorem test_decode_clears_positioning :
    decodeTableWord 8 0b10000111 = some .clearFault ∧ decodeTableWord 8 0b10001000 = some .clearAttention ∧
      decodeTableWord 8 0b10001001 = some .seek ∧ decodeTableWord 8 0b10001010 = some .rezero := by decide

/-- R87: the codes just outside the map on each side, and 0xAA. -/
theorem test_decode_unrecognized :
    decodeTableWord 8 0b00001011 = some (.unrecognized 0x0B) ∧
      decodeTableWord 8 0b01111111 = some (.unrecognized 0x7F) ∧
      decodeTableWord 8 0b10001100 = some (.unrecognized 0x8C) ∧
      decodeTableWord 8 0b10101010 = some (.unrecognized 0xAA) ∧
      decodeTableWord 8 0b11111111 = some (.unrecognized 0xFF) := by decide

/-- R80: no byte is no command, and the bytes after the first are left. -/
theorem test_decodeBytes :
    decodeBytes CodeMap.reference [] = .error .noCommandByte ∧
      decodeBytes CodeMap.reference [0x89, 0x00] = .ok (.seek, [0x00]) := by
  constructor <;> rfl

/-- W3: the two classifications on the boundary codes. -/
theorem test_classification :
    [0x00, 0x07, 0x08, 0x0A, 0x0B, 0x7F, 0x80, 0x88, 0x89, 0x8B, 0x8C, 0xAA].map
        (fun c : Byte => (commandIsParamOut c, commandIsTimeDependent CodeMap.reference c)) =
      [(true, false), (true, false), (true, true), (true, true), (true, false), (true, false), (false, false),
       (false, false), (false, true), (false, true), (false, false), (false, false)] := by decide

/-! ### WellFormed: each check refuses an ill-formed term -/

/-- R86: a used code is not unrecognized. -/
theorem test_wf_rejects_used_code : Instr.wf CodeMap.reference (.unrecognized 0x89) = false := by decide

/-- R84 constraint 1. -/
theorem test_wf_rejects_two_equal_codes :
    ({ CodeMap.reference with seek := 0x8A } : CodeMap).injective = false := by decide

/-- R84 constraint 2, both ways. -/
theorem test_wf_rejects_wrong_class_bit :
    ({ CodeMap.reference with seek := 0x20 } : CodeMap).classBitsAgree = false ∧
      ({ CodeMap.reference with spinControl := 0x90 } : CodeMap).classBitsAgree = false := by decide

/-- R84 constraint 3. -/
theorem test_wf_rejects_AA :
    ({ CodeMap.reference with seek := 0xAA } : CodeMap).avoidsAA = false ∧
      ({ CodeMap.reference with seek := 0xAA } : CodeMap).admissible = false := by decide

/-- R6: an id of 8 is refused, 7 is not. -/
theorem test_wf_rejects_id_8 :
    ({ Config.reference with deviceId := 8 } : Config).admissible = false ∧
      ({ Config.reference with deviceId := 7 } : Config).admissible = true := by decide

/-- R234: a step of a bad configuration refuses. -/
theorem test_step_refuses_bad_config :
    refusedWith (step { State.reset with config := { Config.reference with deviceId := 8 } }) .badConfig = true := by
  decide

/-! ### The commands -/

/-- V-EX2. -/
theorem test_reportGeneralStatus :
    after (exec .reportGeneralStatus { State.reset with generalStatus := 0x1E }) (fun t => t.paramIn == 0x1E) = true := by
  decide

/-- V-EX3. -/
theorem test_reportSenseByte1 :
    after (exec .reportSenseByte1 { State.reset with senseByte1 := 0x05, senseByte2 := 0x40 })
      (fun t => t.paramIn == 0x05 && t.senseByte1 == 0x05) = true := by decide

/-- V-EX4. -/
theorem test_reportSenseByte2 :
    after (exec .reportSenseByte2 { State.reset with senseByte1 := 0x05, senseByte2 := 0x40 })
      (fun t => t.paramIn == 0x40) = true := by decide

/-- V-EX5: the current register, not the load register. -/
theorem test_reportCylAddrHigh :
    after (exec .reportCylAddrHigh { State.reset with currentCylinderHigh := 0x01, loadCylinderHigh := 0x02 })
      (fun t => t.paramIn == 0x01) = true := by decide

/-- V-EX6. -/
theorem test_reportCylAddrLow :
    after (exec .reportCylAddrLow { State.reset with currentCylinderLow := 0x2C, loadCylinderLow := 0x11 })
      (fun t => t.paramIn == 0x2C) = true := by decide

/-- V-EX7. -/
theorem test_reportTestByte :
    after (exec .reportTestByte { State.reset with testByte := 0xA5 }) (fun t => t.paramIn == 0xA5) = true := by decide

/-- V-EX19. -/
theorem test_reportAttribute_71 :
    after (exec .reportAttribute
        { State.reset with attributesInitialized := true, attributeNumber := 71, attributes := [(71, 0x33)] })
      (fun t => t.paramIn == 0x33 && t.generalStatus == 0x00) = true := by decide

/-- V-EX20: the table is initialized although the index is illegal. -/
theorem test_reportAttribute_72 :
    after (exec .reportAttribute { State.reset with attributeNumber := 72 })
      (fun t => t.attributesInitialized && t.generalStatus == 0x04 && t.attentionPending && t.paramIn == 0x04)
      = true := by decide

/-- V-EX8. -/
theorem test_clearFault :
    after (exec .clearFault
        { State.reset with senseByte1 := 0x05, senseByte2 := 0x10, generalStatus := 0x1A, attentionPending := true })
      (fun t => t.senseByte1 == 0x00 && t.senseByte2 == 0x00 && t.generalStatus == 0x02 && !t.attentionPending
        && t.paramIn == 0x02) = true := by decide

/-- V-EX9: a fault that is still present keeps its bit. -/
theorem test_clearFault_present :
    after (exec .clearFault
        { State.reset with
          config := { Config.reference with faultPresent1 := 0x01 }
          senseByte1 := 0x05, generalStatus := 0x08, attentionPending := true })
      (fun t => t.senseByte1 == 0x01 && t.generalStatus == 0x08 && !t.attentionPending && t.paramIn == 0x08)
      = true := by decide

/-- V-EX10. -/
theorem test_clearAttention :
    after (exec .clearAttention { State.reset with generalStatus := 0x0E, senseByte1 := 0x01, attentionPending := true })
      (fun t => t.generalStatus == 0x08 && t.senseByte1 == 0x01 && !t.attentionPending && t.paramIn == 0x08)
      = true := by decide

/-- V-EX13: cylinder 1023 is the last legal target. -/
theorem test_seek_1023 :
    after (exec .seek { State.reset with loadCylinderHigh := 0x03, loadCylinderLow := 0xFF })
      (fun t => t.schedActive && t.schedAction == .commitSeek 0x03 0xFF && t.schedDuration == 3
        && t.generalStatus == 0x01 && t.paramIn == 0x01) = true := by decide

/-- V-EX14: cylinder 1024 is not. -/
theorem test_seek_1024 :
    after (exec .seek { State.reset with loadCylinderHigh := 0x04, loadCylinderLow := 0x00 })
      (fun t => !t.schedActive && t.generalStatus == 0x04 && t.attentionPending && t.paramIn == 0x04) = true := by
  decide

/-- V-EX17: the position does not move yet. -/
theorem test_rezero :
    after (exec .rezero { State.reset with currentCylinderHigh := 0x01, currentCylinderLow := 0x2C })
      (fun t => t.schedActive && t.schedAction == .commitRezero && t.currentCylinderHigh == 0x01
        && t.paramIn == 0x01) = true := by decide

/-- V-EX21: attention is not raised at the start. -/
theorem test_setAttention :
    after (exec .setAttention State.reset)
      (fun t => t.schedActive && t.schedAction == .none && !t.attentionPending && t.paramIn == 0x01) = true := by decide

/-- V-EX22. -/
theorem test_selectiveReset :
    after (exec .selectiveReset { State.reset with paramOut := 0x77, testByte := 0x12 })
      (fun t => t.schedActive && t.schedAction == .none && t.testByte == 0x12 && t.generalStatus == 0x01) = true := by
  decide

/-- V-EX23. -/
theorem test_reformatTrack :
    after (exec .reformatTrack { State.reset with paramOut := 0xFF })
      (fun t => t.schedActive && t.schedAction == .none && t.generalStatus == 0x01) = true := by decide

/-- V-EX24. -/
theorem test_spinControl :
    after (exec .spinControl { State.reset with paramOut := 0x01 })
      (fun t => t.schedActive && t.schedAction == .none && t.generalStatus == 0x01) = true := by decide

/-- V-EX25: the current position does not move. -/
theorem test_loadCylAddrHigh :
    after (exec .loadCylAddrHigh { State.reset with paramOut := 0xFF })
      (fun t => t.loadCylinderHigh == 0xFF && t.loadCylinderLow == 0x00 && t.currentCylinderHigh == 0x00) = true := by
  decide

/-- V-EX26. -/
theorem test_loadCylAddrLow :
    after (exec .loadCylAddrLow { State.reset with paramOut := 0x2C })
      (fun t => t.loadCylinderLow == 0x2C && t.loadCylinderHigh == 0x00) = true := by decide

/-- V-EX27: no range check and no initialization. -/
theorem test_loadAttributeNumber :
    after (exec .loadAttributeNumber { State.reset with paramOut := 0xC8 })
      (fun t => t.attributeNumber == 0xC8 && !t.attributesInitialized && t.generalStatus == 0x00) = true := by decide

/-- V-EX28, over an initialized table of zeros. -/
theorem test_loadAttribute_5 :
    after (exec .loadAttribute
        { State.reset with attributesInitialized := true, attributeNumber := 5, paramOut := 0x5A })
      (fun t => t.attributes == [(5, 0x5A)] && t.attributeNumber == 5 && t.paramIn == 0x00) = true := by decide

/-- V-EX29. -/
theorem test_loadAttribute_200 :
    after (exec .loadAttribute
        { State.reset with attributesInitialized := true, attributeNumber := 200, paramOut := 0x11 })
      (fun t => t.attributes == [] && t.generalStatus == 0x04 && t.attentionPending) = true := by decide

/-- V-EX30. -/
theorem test_loadTestByte :
    after (exec .loadTestByte { State.reset with paramOut := 0xA5 }) (fun t => t.testByte == 0xA5) = true := by decide

/-- V-EX31: head 7 is the last legal head. -/
theorem test_selectHead_7 :
    after (exec .selectHead { State.reset with paramOut := 0x07 })
      (fun t => t.selectedHead == 0x07 && t.generalStatus == 0x00) = true := by decide

/-- V-EX32: head 8 is not. -/
theorem test_selectHead_8 :
    after (exec .selectHead { State.reset with paramOut := 0x08, selectedHead := 0x02 })
      (fun t => t.selectedHead == 0x02 && t.generalStatus == 0x04 && t.attentionPending && t.paramIn == 0x04)
      = true := by decide

/-- V-EX33 and V-EX34: only bit 7 counts, and a pending condition is kept. -/
theorem test_attentionControl :
    after (exec .attentionControl { State.reset with paramOut := 0x80, attentionEnabled := false })
        (fun t => t.attentionEnabled) = true ∧
      after (exec .attentionControl { State.reset with paramOut := 0x7F, attentionPending := true })
        (fun t => !t.attentionEnabled && t.attentionPending && !attentionLine t) = true := by decide

/-- V-EX35 and V-EX36. -/
theorem test_writeControl :
    after (exec .writeControl { State.reset with paramOut := 0xC0 }) (fun t => t.writeEnabled) = true ∧
      after (exec .writeControl { State.reset with paramOut := 0x00, writeEnabled := true })
        (fun t => !t.writeEnabled) = true := by decide

/-- V-EX38 and V-EX39. -/
theorem test_unrecognized :
    after (exec (.unrecognized 0xAA) State.reset)
        (fun t => t.generalStatus == 0x02 && t.paramIn == 0x02 && !t.attentionPending) = true ∧
      after (exec (.unrecognized 0xFF) { State.reset with generalStatus := 0x06, attentionPending := true })
        (fun t => t.generalStatus == 0x06 && t.paramIn == 0x06 && t.attentionPending) = true := by decide

/-! ### Sense bytes, Scheduler, cycle -/

/-- W6, V-AT10: a rising bit sets the summary; it raises attention only under the mask. -/
theorem test_setSense :
    (setSense .one 0x03 { State.reset with senseByte1 := 0x01 }).attentionPending = true ∧
      (setSense .one 0x80 { State.reset with senseByte1 := 0x80 }).attentionPending = false ∧
      (setSense .two 0x30
        { State.reset with config := { Config.reference with sense2AttentionMask := 0x0F } }).attentionPending = false ∧
      (setSense .two 0x40 State.reset).generalStatus = 0x10 := by decide

/-- W6: the last bit cleared takes the summary with it. -/
theorem test_clearSense :
    (clearSense .one 0x01 { State.reset with senseByte1 := 0x03, generalStatus := 0x08 }).generalStatus = 0x08 ∧
      (clearSense .one 0x02 { State.reset with senseByte1 := 0x02, generalStatus := 0x08 }).generalStatus = 0x00 := by
  decide

/-- V-SC1, V-SC2, V-SC3, V-SC4. -/
theorem test_scheduler_edges :
    (schedPoll (schedAdvance 0 (schedStart 0 .none State.reset))).1 = .complete ∧
      (schedAdvance 5 { State.reset with schedActive := true, schedElapsed := 0xFFFFFFFE }).schedElapsed = 0xFFFFFFFF ∧
      (schedAdvance 1 { State.reset with schedElapsed := 7 }).schedElapsed = 7 ∧
      schedPoll State.reset = (.complete, State.reset) := by decide

/-- V-SM38: a completing wait. -/
theorem test_cycle_completion :
    after (cycle Sample.default 1
        { at_ .awaitingTimeDependentCommand with
          schedActive := true, schedDuration := 3, schedElapsed := 2, schedAction := .commitSeek 0x01 0x2C
          busyOut := true, generalStatus := 0x01 })
      (fun t => t.protocolState == .selected && !t.busyOut && t.attentionPending && t.generalStatus == 0x00
        && t.currentCylinderHigh == 0x01 && t.currentCylinderLow == 0x2C && t.schedElapsed == 3) = true := by decide

/-- V-RS2: re-initialization on loss of enable. -/
theorem test_cycle_reinit :
    after (cycle Sample.allLow 1
        { at_ .connected with
          generalStatus := 0x06, senseByte1 := 0x01, attentionPending := true, attentionEnabled := false
          writeEnabled := true, currentCylinderHigh := 0x01, attributesInitialized := true, attributeNumber := 5
          busOut := 0x08 })
      (fun t => t == { State.reset with previousPins := Sample.allLow }) = true := by decide

/-- V-SM18: the radial status byte. -/
theorem test_cycle_radial :
    after (cycle { strobe 0x00 with dir := .d2h } 1 (at_ .selected))
      (fun t => t.busOut == 0x08 && t.busDrive && !t.ackOut && t.protocolState == .selected) = true := by decide

/-- V-SM9 and V-SM8: the acknowledge stays up under a strobe and falls without one. -/
theorem test_cycle_release :
    after (cycle (strobe 0x04) 1 { at_ .connected with ackOut := true }) (fun t => t.ackOut) = true ∧
      after (cycle Sample.default 1 { at_ .connected with ackOut := true }) (fun t => !t.ackOut) = true := by decide

/-- Log 19: the fetched word runs as the first instruction after reset. -/
theorem test_withFetchWord_runs :
    after (step (State.reset.withFetchWord 8 0x89))
      (fun t => t.cmd == 0x89 && t.protocolState == .awaitingParamIn && t.busyOut && t.paramIn == 0x01) = true := by
  decide

/-- R275, R233: two cycles with an event between them give two tuples, those of program P1's cycles 1 and 2 but for the
attention line the event raises; a refused cycle gives none. -/
theorem test_observe_one_tuple_per_cycle :
    (observe State.reset [.cycle Sample.default 1, .sense .one 0x01, .cycle (strobe 0x08) 1]).1 =
        [{ ackOut := false, busyOut := false, attentionLine := false, busDrive := false, busOut := 0x00 },
         { ackOut := true, busyOut := false, attentionLine := true, busDrive := false, busOut := 0x00 }] ∧
      (observe (at_ .reading) [.cycle Sample.default 1]).1 = [] ∧
      (observe (at_ .reading) [.cycle Sample.default 1]).2.refusalMark = true := by decide

/-- R5: the ends of the geometry's ranges. With 65536 cylinders 0xFFFF is a legal target, with one only 0. -/
theorem test_geometry_ends :
    cylinderInRange { Config.reference.geometry with lastCylinder := 65535 } 0xFFFF = true ∧
      cylinderInRange { Config.reference.geometry with lastCylinder := 0 } 0 = true ∧
      cylinderInRange { Config.reference.geometry with lastCylinder := 0 } 1 = false ∧
      headInRange { Config.reference.geometry with lastHead := 255 } 0xFF = true := by decide

/-- R241: two engines under one sample, each with its own time increment. -/
theorem test_cycleAll :
    (cycleAll (strobe 0x08)
        [(1, at_ .connected), (2, { at_ .connected with id := 2, schedActive := true, schedDuration := 9 })]).map
        (fun r => after r (fun t => t.protocolState == .selected)) = [true, false] ∧
      (cycleAll (strobe 0x08)
        [(1, at_ .connected), (2, { at_ .connected with id := 2, schedActive := true, schedDuration := 9 })]).map
        (fun r => after r (fun t => t.schedElapsed == 2)) = [false, true] := by decide

/-- 20_memory.md: a write of the unlisted byte takes the entry out. -/
theorem test_memory_write_canonical :
    Memory.write [(2, 0x11), (5, 0x22)] 5 0x00 = [(2, 0x11)] ∧
      Memory.write [(2, 0x11), (5, 0x22)] 3 0x33 = [(2, 0x11), (3, 0x33), (5, 0x22)] ∧
      State.reset.attributes.wf := by decide

/-! ### Witnesses: the hypotheses of the obligations can be met -/

/-- `DecodeOfEncodeIsTheInstruction`, `TimeDependentCodesAreTheSix`, `InvariantHoldsAtReset`,
`IdAndParametersNeverChange`: an admissible map and configuration, and well-formed instructions of both kinds. -/
theorem test_witness_admissible :
    CodeMap.reference.admissible = true ∧ Config.reference.admissible = true ∧
      Instr.wf CodeMap.reference .seek = true ∧ Instr.wf CodeMap.reference (.unrecognized 0xAA) = true := by decide

/-- `TimeDependentCodesAreTheSix`: a map that is not the reference one is admissible too. -/
theorem test_witness_other_map :
    ({ CodeMap.reference with seek := 0xFF, selectHead := 0x7F } : CodeMap).admissible = true := by decide

/-- `StepAppliesTheListedInput`: an admissible state with a listed cycle, and one with a listed sense event. -/
theorem test_witness_listed :
    State.reset.config.admissible = true ∧
      ({ State.reset with inputs := [.cycle Sample.default 1] } : State).inputs = .cycle Sample.default 1 :: [] ∧
      ({ State.reset with inputs := [.sense .two 0x40] } : State).inputs = .sense .two 0x40 :: [] := by decide

/-- `StepRunsTheLatchedCommand`. -/
theorem test_witness_latched :
    (State.reset.withFetchWord 8 0x89).config.admissible = true ∧
      (State.reset.withFetchWord 8 0x89).protocolState = .executeCommand ∧
      (State.reset.withFetchWord 8 0x89).inputs = .cycle Sample.default 1 :: [] ∧
      decode (State.reset.withFetchWord 8 0x89).config.codes (State.reset.withFetchWord 8 0x89).cmd = .seek := by
  decide

/-- `StepRefusesExactly`: a refusal of each kind, the data phase one in READING and in WRITING (V-SM41). -/
theorem test_witness_refusals :
    refusedWith (step { State.reset with config := { Config.reference with deviceId := 8 } }) .badConfig = true ∧
      refusedWith (step { at_ .reading with inputs := [.cycle Sample.default 1] }) .dataPhaseUnmodelled = true ∧
      refusedWith (step { at_ .writing with inputs := [.cycle Sample.default 1] }) .dataPhaseUnmodelled = true ∧
      after (step { at_ .reading with inputs := [.sense .one 0x01] }) (fun t => t.senseByte1 == 0x01) = true := by
  decide

/-- `DirectionFollowsTheSample`, `SnapshotKeptAndNeverRead`: a cycle that goes on (W1, first row). -/
theorem test_witness_cycle :
    ∃ t, cycle { Sample.allLow with dir := .d2h } 1 State.reset = .next t ∧ t.busDrive = true := ⟨_, rfl, rfl⟩

/-- `AcknowledgeFallsOnlyOnRelease`, first clause: all low, from READ_COMMAND and from SELECTED. -/
theorem test_witness_ack_low :
    (∃ t, cycle Sample.default 1 (at_ .readCommand) = .next t ∧ t.ackOut = true) ∧
      ∃ t, cycle Sample.default 1 { at_ .selected with ackOut := true } = .next t ∧ t.ackOut = false :=
  ⟨⟨_, rfl, rfl⟩, ⟨_, rfl, rfl⟩⟩

/-- `AcknowledgeFallsOnlyOnRelease`, second clause: a strobe up, the acknowledge falls by re-initialization. -/
theorem test_witness_ack_reinit :
    ∃ t, cycle { strobe 0x08 with enable := false } 1 { at_ .connected with ackOut := true } = .next t ∧
      t.ackOut = false := ⟨_, rfl, rfl⟩

/-- `ProtocolViolationRecordedAndHarmless`: a gate in a handshake state (V-SM23), and one outside (V-SM12). -/
theorem test_witness_violation :
    (at_ .awaitingParamOut).protocolState.isHandshake = true ∧
      (∃ t, cycle { Sample.default with readGate := true } 1 (at_ .awaitingParamOut) = .next t ∧
        t.modelFaults = [.protocolViolation]) ∧
      ∃ t, cycle { Sample.default with readGate := true } 1 (at_ .selected) = .next t ∧ t.modelFaults = [] :=
  ⟨rfl, ⟨_, rfl, rfl⟩, ⟨_, rfl, rfl⟩⟩

/-- `DisconnectedWaitsForEnable` (V-SM3, V-SM1). -/
theorem test_witness_disconnected :
    State.reset.protocolState = .disconnected ∧
      after (cycle (strobe 0x08) 1 State.reset) (fun t => t.protocolState == .connected && !t.ackOut) = true ∧
      after (cycle Sample.allLow 1 State.reset) (fun t => t.protocolState == .disconnected) = true := by decide

/-- `LossOfEnableReinitializes`. -/
theorem test_witness_loss_of_enable :
    (at_ .connected).protocolState = .connected ∧ Sample.allLow.enable = false := by decide

/-- `SelectionIsTheMaskBit`, both ways (V-SM5, V-SM6). -/
theorem test_witness_selection :
    (at_ .connected).protocolState = .connected ∧ (strobe 0x08).enable = true ∧
      after (cycle (strobe 0x08) 1 (at_ .connected)) (fun t => t.protocolState == .selected && t.ackOut) = true ∧
      after (cycle (strobe 0x04) 1 (at_ .connected)) (fun t => t.protocolState == .connected && !t.ackOut) = true := by
  decide

/-- `SelectedRequestBeforeGates`, each clause with a later one's line up too (V-SM14, V-SM15, V-SM13). -/
theorem test_witness_selected :
    (at_ .selected).protocolState = .selected ∧
      after (cycle { commandSample 0x80 with readGate := true, writeGate := true } 1 (at_ .selected))
        (fun t => t.protocolState == .readCommand && t.cmd == 0x00) = true ∧
      after (cycle { Sample.default with readGate := true, writeGate := true } 1 (at_ .selected))
        (fun t => t.protocolState == .reading) = true ∧
      after (cycle { Sample.default with writeGate := true, sel := true } 1 (at_ .selected))
        (fun t => t.protocolState == .writing) = true := by decide

/-- `ReselectionFollowsTheMask`, both ways (V-SM16, V-SM17). -/
theorem test_witness_reselection :
    ((strobe 0x08).cmdReq = false ∧ (strobe 0x08).readGate = false ∧ (strobe 0x08).writeGate = false ∧
      (strobe 0x08).sel = true ∧ (strobe 0x08).dir = .h2d) ∧
      after (cycle (strobe 0x08) 1 (at_ .selected)) (fun t => t.protocolState == .selected && t.ackOut) = true ∧
      after (cycle (strobe 0xF7) 1 (at_ .selected)) (fun t => t.protocolState == .connected && !t.ackOut) = true := by
  decide

/-- `RadialStatusAndIdle`: the lines of each clause, the second with a request from the wrong side (V-SM11). -/
theorem test_witness_radial :
    (({ strobe 0x00 with dir := .d2h } : Sample).sel = true ∧ ({ strobe 0x00 with dir := .d2h } : Sample).dir = .d2h ∧
      ({ strobe 0x00 with dir := .d2h } : Sample).readGate = false ∧
      ({ strobe 0x00 with dir := .d2h } : Sample).writeGate = false) ∧
      after (cycle { commandSample 0x80 with dir := .d2h } 1 (at_ .selected))
        (fun t => t.protocolState == .selected && t.busDrive) = true := by decide

/-- `ReadCommandLatchesUnconditionally`, both classes (V-SM21, V-SM22). -/
theorem test_witness_read_command :
    (at_ .readCommand).protocolState = .readCommand ∧
      after (cycle (busSample 0x05) 1 (at_ .readCommand))
        (fun t => t.cmd == 0x05 && t.ackOut && t.protocolState == .awaitingParamOut) = true ∧
      after (cycle (commandSample 0x80) 1 (at_ .readCommand))
        (fun t => t.cmd == 0x80 && t.ackOut && t.protocolState == .executeCommand) = true := by decide

/-- `ParamOutLatchedOnRequest`, each clause (V-SM24, V-SM25, and a gate beside the request). -/
theorem test_witness_param_out :
    (at_ .awaitingParamOut).protocolState = .awaitingParamOut ∧
      after (cycle (paramOutSample 0x2C) 1 (at_ .awaitingParamOut))
        (fun t => t.paramOut == 0x2C && t.ackOut && t.protocolState == .executeCommand) = true ∧
      after (cycle { paramOutSample 0x2C with dir := .d2h } 1 (at_ .awaitingParamOut))
        (fun t => t.paramOut == 0x00 && t.protocolState == .awaitingParamOut) = true ∧
      after (cycle { paramOutSample 0x2C with writeGate := true } 1 (at_ .awaitingParamOut))
        (fun t => t.paramOut == 0x2C && t.modelFaults == [.protocolViolation]) = true := by decide

/-- `ExecuteCommandCompletes`: each class, and an illegal SEEK, which still raises busy (V-SM28, V-SM30, V-SM31, R118). -/
theorem test_witness_execute :
    (executing 0x80).protocolState = .executeCommand ∧
      after (cycle Sample.default 1 (executing 0x80)) (fun t => t.protocolState == .awaitingParamIn && !t.busyOut)
        = true ∧
      after (cycle Sample.default 1 (executing 0x08))
        (fun t => t.protocolState == .awaitingTimeDependentCommand && t.busyOut && t.schedActive) = true ∧
      after (cycle Sample.default 1 (executing 0x0B))
        (fun t => t.protocolState == .selected && t.generalStatus == 0x02) = true ∧
      after (cycle { Sample.default with readGate := true } 1 { executing 0x89 with loadCylinderHigh := 0x04 })
        (fun t => t.protocolState == .awaitingParamIn && t.busyOut && !t.schedActive && t.generalStatus == 0x04
          && t.modelFaults == [.protocolViolation]) = true := by decide

/-- `ParamInSentOnRequest`, each clause (V-SM34, V-SM33, V-SM35). -/
theorem test_witness_param_in :
    (at_ .awaitingParamIn).protocolState = .awaitingParamIn ∧
      after (cycle paramInSample 1 { at_ .awaitingParamIn with cmd := 0x89, paramIn := 0x01 })
        (fun t => t.busOut == 0x01 && t.ackOut && t.protocolState == .awaitingTimeDependentCommand) = true ∧
      after (cycle { paramInSample with writeGate := true } 1 { at_ .awaitingParamIn with cmd := 0x80, paramIn := 0x5A })
        (fun t => drivenByte t == some 0x5A && t.ackOut && t.protocolState == .selected
          && t.modelFaults == [.protocolViolation]) = true ∧
      after (cycle { paramInSample with dir := .h2d } 1 { at_ .awaitingParamIn with paramIn := 0x5A })
        (fun t => t.busOut == 0x00 && t.protocolState == .awaitingParamIn) = true := by decide

/-- A wait for a registration of duration 3 with some elapsed time and action. -/
def waiting (elapsed : Time) (a : SchedAction) : State :=
  { at_ .awaitingTimeDependentCommand with
    schedActive := true, schedDuration := 3, schedElapsed := elapsed, schedAction := a
    busyOut := true, generalStatus := 0x01, currentCylinderHigh := 0x02, currentCylinderLow := 0x03 }

/-- `TimeDependentCompletion`, each clause at the boundary: one short of the duration (V-SM37), at it, and with nothing
registered (V-SM39). -/
theorem test_witness_completion :
    after (cycle Sample.default 1 (waiting 1 .commitRezero))
        (fun t => t.protocolState == .awaitingTimeDependentCommand && t.schedElapsed == 2 && t.busyOut) = true ∧
      after (cycle Sample.default 1 (waiting 2 .commitRezero))
        (fun t => t.protocolState == .selected && t.currentCylinderHigh == 0x00 && t.currentCylinderLow == 0x00)
        = true ∧
      after (cycle Sample.default 1 (waiting 2 .none))
        (fun t => t.protocolState == .selected && t.currentCylinderHigh == 0x02 && t.currentCylinderLow == 0x03)
        = true ∧
      after (cycle Sample.default 1 { at_ .awaitingTimeDependentCommand with busyOut := true })
        (fun t => t.protocolState == .selected && !t.busyOut && t.attentionPending) = true := by decide

/-- `TransitionGraphIsComplete`: a state with an edge and the two without. -/
theorem test_witness_edges :
    edge Sample.default 1 State.reset = some .connected ∧ edge Sample.default 1 (at_ .reading) = none ∧
      edge Sample.default 1 (at_ .writing) = none := by decide

/-- `EnableReadOnlyInTwoStates` (V-SM19). -/
theorem test_witness_enable :
    (at_ .selected).protocolState ≠ .disconnected ∧ (at_ .selected).protocolState ≠ .connected ∧
      ∃ t, cycle Sample.default 1 (at_ .selected) = .next t := ⟨by decide, by decide, _, rfl⟩

/-- `LatchesHaveOneWriter`: all three kinds of hypothesis hold in SELECTED. -/
theorem test_witness_latches :
    (∃ t, cycle Sample.default 1 (at_ .selected) = .next t) ∧
      ¬((at_ .selected).protocolState = .connected ∧ Sample.default.enable = false) ∧
      (at_ .selected).protocolState ≠ .readCommand ∧ (at_ .selected).protocolState ≠ .awaitingParamOut ∧
      (at_ .selected).protocolState ≠ .executeCommand := ⟨⟨_, rfl⟩, by decide, by decide, by decide, by decide⟩

/-- `CurrentCylinderWrittenOnlyAtCompletion`: a completing seek moves the position. -/
theorem test_witness_cylinder :
    ∃ t, cycle Sample.default 1 (waiting 2 (.commitSeek 0x01 0x2C)) = .next t ∧
      ¬((waiting 2 (.commitSeek 0x01 0x2C)).protocolState = .connected ∧ Sample.default.enable = false) ∧
      cylinderNumber t.currentCylinderHigh t.currentCylinderLow ≠
        cylinderNumber (waiting 2 (.commitSeek 0x01 0x2C)).currentCylinderHigh
          (waiting 2 (.commitSeek 0x01 0x2C)).currentCylinderLow := ⟨_, rfl, by decide, by decide⟩

/-- `NoCycleSetsASenseBit`: a bit that stays, and one that CLEAR_FAULT takes. -/
theorem test_witness_sense_bits :
    (∃ t, cycle Sample.default 1 { at_ .selected with senseByte1 := 0x04 } = .next t ∧
      (senseByte .one t).getLsbD 2 = true) ∧
      ∃ t, cycle Sample.default 1 { executing 0x87 with senseByte2 := 0x80 } = .next t ∧
        (senseByte .two { executing 0x87 with senseByte2 := 0x80 }).getLsbD 7 = true ∧
        (senseByte .two t).getLsbD 7 = false := ⟨⟨_, rfl, rfl⟩, ⟨_, rfl, rfl, rfl⟩⟩

/-- `AttentionRisesExactlyAtItsCauses`: a completion, an illegal parameter, and a sense event, each from no condition. -/
theorem test_witness_attention_rises :
    (∃ t, cycle Sample.default 1 (waiting 2 .none) = .next t ∧ t.attentionPending = true) ∧
      (∃ t, cycle Sample.default 1 { executing 0x05 with paramOut := 0x08 } = .next t ∧ t.attentionPending = true) ∧
      (waiting 2 .none).attentionPending = false ∧ (executing 0x05).attentionPending = false ∧
      (setSense .two 0x40 State.reset).attentionPending = true :=
  ⟨⟨_, rfl, rfl⟩, ⟨_, rfl, rfl⟩, rfl, rfl, by decide⟩

/-- `AttentionFallsExactlyAtTheClears`: CLEAR_ATTENTION, and a cycle that keeps the condition. -/
theorem test_witness_attention_falls :
    (∃ t, cycle Sample.default 1 { executing 0x88 with attentionPending := true } = .next t ∧
      t.attentionPending = false) ∧
      ∃ t, cycle Sample.default 1 { executing 0x80 with attentionPending := true } = .next t ∧
        t.attentionPending = true := ⟨⟨_, rfl, rfl⟩, ⟨_, rfl, rfl⟩⟩

/-- `RegistrationIsNeverCancelled`: an active registration that stays, completes, is overwritten and is dropped. -/
theorem test_witness_registration :
    (waiting 1 .commitRezero).schedActive = true ∧
      after (cycle Sample.default 1 (waiting 1 .commitRezero)) (fun t => t.schedActive) = true ∧
      after (cycle Sample.default 1 (waiting 2 .commitRezero)) (fun t => !t.schedActive) = true ∧
      after (cycle Sample.default 1 { waiting 2 .commitRezero with protocolState := .executeCommand, cmd := 0x8B })
        (fun t => t.schedActive && t.schedElapsed == 0 && t.currentCylinderHigh == 0x02) = true ∧
      after (cycle Sample.allLow 1 { waiting 2 .commitRezero with protocolState := .connected })
        (fun t => !t.schedActive) = true := by decide

/-- `StatusAndCylinderReports`: every named status bit set, none of the reserved ones. -/
theorem test_witness_status_report :
    ({ State.reset with generalStatus := 0x1F } : State).ReservedClear ∧
      ∃ t, exec .reportGeneralStatus { State.reset with generalStatus := 0x1F } = .next t ∧ t.paramIn = 0x1F :=
  ⟨by decide, _, rfl, rfl⟩

/-- `ReportAttributeCompletes`, `LoadAttributeCompletes`, `LazyInitializationRunsOnce`: the boundary indices, a canonical
table that is initialized, and one that is not. -/
theorem test_witness_attributes :
    (71#8).toNat < attributeTableSize ∧ attributeTableSize ≤ (72#8).toNat ∧
      Memory.wf [(0, 0x11), (71, 0x33)] ∧ State.reset.attributes.wf ∧ State.reset.attributesInitialized = false ∧
      after (exec .loadAttribute
          { State.reset with
            attributesInitialized := true, attributeNumber := 71, paramOut := 0x44, attributes := [(0, 0x11), (71, 0x33)] })
        (fun t => t.attributes == [(0, 0x11), (71, 0x44)]) = true ∧
      after (exec .loadAttribute
          { State.reset with
            attributesInitialized := true, attributeNumber := 72, paramOut := 0x44, attributes := [(0, 0x11), (71, 0x33)] })
        (fun t => t.attributes == [(0, 0x11), (71, 0x33)] && t.generalStatus == 0x04) = true := by decide

/-- `SelectHeadChecksTheHead`, `SeekCapturesOrRejectsItsTarget`: the boundary operands (see also the command tests). -/
theorem test_witness_ranges :
    (7#8).toNat < Config.reference.geometry.heads ∧ Config.reference.geometry.heads ≤ (8#8).toNat ∧
      (0x03#8).toNat * 256 + (0xFF#8).toNat < Config.reference.geometry.cylinders ∧
      Config.reference.geometry.cylinders ≤ (0x04#8).toNat * 256 + (0x00#8).toNat := by decide

/-- `ErrorsAreRaisedExactly`: both bits clear, and a command with illegal operands that completes. -/
theorem test_witness_errors :
    ∃ t, exec .selectHead { State.reset with paramOut := 0x08 } = .next t ∧
      State.reset.illegalParameterBit = false ∧ State.reset.illegalCommandBit = false ∧
      raisesIllegalParameter .selectHead { State.reset with paramOut := 0x08 } = true := ⟨_, rfl, rfl, rfl, rfl⟩

/-- `IllegalParameterIsSticky`: the bit set before, cleared by CLEAR_ATTENTION and kept by CLEAR_FAULT. -/
theorem test_witness_sticky :
    (∃ t, cycle Sample.default 1 { executing 0x88 with generalStatus := 0x04 } = .next t ∧
      ({ executing 0x88 with generalStatus := 0x04 } : State).illegalParameterBit = true ∧
      t.illegalParameterBit = false) ∧
      ∃ t, cycle Sample.default 1 { executing 0x87 with generalStatus := 0x04 } = .next t ∧
        t.illegalParameterBit = true := ⟨⟨_, rfl, rfl, rfl⟩, ⟨_, rfl, rfl⟩⟩

/-- `AttentionLineIsGated`: a condition raised while the line is disabled shows when it is enabled (program P5). -/
theorem test_witness_gate :
    ∃ t, exec .attentionControl
        { State.reset with attentionPending := true, attentionEnabled := false, paramOut := 0x80 } = .next t ∧
      attentionLine t = true := ⟨_, rfl, rfl⟩

/-- `SchedulerRoundTrip`: a duration of 3, at the first poll and at the completing one (W4). -/
theorem test_witness_round_trip :
    1 ≤ (3#32).toNat ∧ 0 + 1 < (3#32).toNat ∧
      (tick (ticks 1 (schedStart 3 (.commitSeek 0x01 0x2C) State.reset))).1 = .running ∧
      (tick (ticks 2 (schedStart 3 (.commitSeek 0x01 0x2C) State.reset))).1 = .complete := by decide

/-- The invariants: they hold of the reset state, and a step from it goes on. -/
theorem test_witness_invariant :
    ({ State.reset with inputs := [.cycle Sample.default 1] } : State).Inv ∧
      ({ State.reset with inputs := [.cycle Sample.default 1] } : State).BusyAgrees ∧
      ({ State.reset with inputs := [.cycle Sample.default 1] } : State).SummariesAgree ∧
      after (step { State.reset with inputs := [.cycle Sample.default 1] }) (fun t => t.protocolState == .connected)
        = true := by decide

/-- The invariant holds of a state in the middle of a seek, with a sense bit and a table entry. -/
theorem test_witness_invariant_busy :
    ({ waiting 1 (.commitSeek 0x01 0x2C) with
        generalStatus := 0x09, senseByte1 := 0x02, attributes := [(5, 0x5A)], attributesInitialized := true } : State).Inv
      := by decide

/-- `OutTransactionRunsTheCommandOnce`: `OUTCMD 04,A5` from SELECTED. -/
theorem test_witness_out_transaction :
    ∃ s : State, s.config.admissible = true ∧ s.protocolState = .selected ∧ s.schedActive = false ∧
      commandIsParamOut 0x04 = true ∧ commandIsTimeDependent s.config.codes 0x04 = false ∧
      s.inputs = (Transaction.outCmd 0x04 0xA5).inputs 1 ++ [] :=
  ⟨{ at_ .selected with inputs := (Transaction.outCmd 0x04 0xA5).inputs 1 ++ [] }, by decide⟩

/-- `InTransactionDeliversTheResponse`: `INCMD 85` from SELECTED. -/
theorem test_witness_in_transaction :
    ∃ s : State, s.config.admissible = true ∧ s.protocolState = .selected ∧ s.schedActive = false ∧
      commandIsParamOut 0x85 = false ∧ commandIsTimeDependent s.config.codes 0x85 = false ∧
      s.inputs = (Transaction.inCmd 0x85).inputs 1 ++ [] :=
  ⟨{ at_ .selected with inputs := (Transaction.inCmd 0x85).inputs 1 ++ [] }, by decide⟩

end Sys2Proof.Tests
end

/-! PROOF. The id, the parameters and the agreement of BUSY with the registration, along every step (10_state.md R21, R30,
R55). The three are kept by the same small operations, so one walk over the model carries them together. -/

namespace Sys2Proof.Machine

/-! ### What is kept between two states -/

/-- From `s` to `t` the id and the parameters are unchanged, and BUSY keeps agreeing with the registration. -/
structure State.KeepsIdAndBusy (s t : State) : Prop where
  id_eq : t.id = s.id
  config_eq : t.config = s.config
  busyAgrees : s.BusyAgrees → t.BusyAgrees

namespace State.KeepsIdAndBusy

/-- An update that leaves the id, the parameters, BUSY and the registration. -/
theorem of_unchanged {s t : State} (hid : t.id = s.id) (hconfig : t.config = s.config)
    (hbusy : t.busyBit = s.busyBit) (hactive : t.schedActive = s.schedActive) : s.KeepsIdAndBusy t :=
  ⟨hid, hconfig, fun h => hbusy.trans (h.trans hactive.symm)⟩

theorem refl (s : State) : s.KeepsIdAndBusy s := of_unchanged rfl rfl rfl rfl

theorem trans {s t u : State} (hst : s.KeepsIdAndBusy t) (htu : t.KeepsIdAndBusy u) : s.KeepsIdAndBusy u :=
  ⟨htu.id_eq.trans hst.id_eq, htu.config_eq.trans hst.config_eq, fun h => htu.busyAgrees (hst.busyAgrees h)⟩

end State.KeepsIdAndBusy

open State.KeepsIdAndBusy

/-! ### The shared operations -/

/-- BUSY is no summary bit (R28). -/
theorem summaryMask_busyBit (n : SenseByte) : (summaryMask n).getLsbD 0 = false := by
  cases n <;> decide

theorem respond_keepsIdAndBusy (v : Byte) (s : State) : s.KeepsIdAndBusy (respond v s) :=
  of_unchanged rfl rfl rfl rfl

theorem respondStatus_keepsIdAndBusy (s : State) : s.KeepsIdAndBusy (respondStatus s) :=
  respond_keepsIdAndBusy _ s

theorem raiseIllegalParameter_keepsIdAndBusy (s : State) : s.KeepsIdAndBusy (raiseIllegalParameter s) :=
  of_unchanged rfl rfl (by simp [State.busyBit, illegalParameterMask]) rfl

theorem raiseIllegalCommand_keepsIdAndBusy (s : State) : s.KeepsIdAndBusy (raiseIllegalCommand s) :=
  of_unchanged rfl rfl (by simp [State.busyBit, illegalCommandMask]) rfl

theorem attrEnsureInit_keepsIdAndBusy (s : State) : s.KeepsIdAndBusy (attrEnsureInit s) :=
  of_unchanged (by simp) (by simp) (by simp [State.busyBit]) (by simp)

theorem memWrite_keepsIdAndBusy (i : Fin attributeTableSize) (v : Byte) (s : State) :
    s.KeepsIdAndBusy (memWrite i v s) :=
  of_unchanged (by simp) (by simp) (by simp [State.busyBit]) (by simp)

theorem setSense_keepsIdAndBusy (n : SenseByte) (m : Byte) (s : State) : s.KeepsIdAndBusy (setSense n m s) :=
  of_unchanged (by simp) (by simp)
    (by rw [State.busyBit, setSense_generalStatus, getLsbD_writeFlag, summaryMask_busyBit]; rfl) (by simp)

theorem clearSense_keepsIdAndBusy (n : SenseByte) (m : Byte) (s : State) : s.KeepsIdAndBusy (clearSense n m s) :=
  of_unchanged (by simp) (by simp)
    (by rw [State.busyBit, clearSense_generalStatus, getLsbD_writeFlag, summaryMask_busyBit]; rfl) (by simp)

/-- A registration starts with BUSY set, whatever the two were before (R201). -/
theorem schedStart_busyAgrees (d : Time) (a : SchedAction) (s : State) : (schedStart d a s).BusyAgrees := by
  simp [State.BusyAgrees, State.busyBit, busyMask]

/-- A completion takes BUSY away with the registration (R203). -/
theorem schedComplete_busyAgrees (s : State) : (schedComplete s).BusyAgrees := by
  simp [State.BusyAgrees, State.busyBit, busyMask]

/-- Boot leaves BUSY clear and no registration (R260). -/
theorem boot_busyAgrees (c : Config) : (State.boot c).BusyAgrees := by
  simp [State.BusyAgrees, State.busyBit, State.boot]

theorem schedStart_keepsIdAndBusy (d : Time) (a : SchedAction) (s : State) : s.KeepsIdAndBusy (schedStart d a s) :=
  ⟨rfl, rfl, fun _ => schedStart_busyAgrees d a s⟩

theorem schedComplete_keepsIdAndBusy (s : State) : s.KeepsIdAndBusy (schedComplete s) :=
  ⟨by simp, by simp, fun _ => schedComplete_busyAgrees s⟩

/-- Re-initialization keeps the id and the parameters and puts the rest at its boot value (R261). -/
theorem reinit_keepsIdAndBusy (s : State) : s.KeepsIdAndBusy (reinit s) :=
  ⟨rfl, rfl, fun _ => boot_busyAgrees s.config⟩

theorem commonPhases_keepsIdAndBusy (smp : Sample) (dt : Time) (s : State) :
    s.KeepsIdAndBusy (commonPhases smp dt s) :=
  of_unchanged (by simp) (by simp) (by simp [State.busyBit]) (by simp)

/-! ### The commands -/

/-- The end of a command that answers with the status (R141). -/
theorem keepsIdAndBusy_of_respondStatus {s t u : State}
    (h : Host.Outcome.next (φ := Fault) (ρ := Refusal) (respondStatus u) = .next t) (hu : s.KeepsIdAndBusy u) :
    s.KeepsIdAndBusy t := by
  cases h
  exact hu.trans (respondStatus_keepsIdAndBusy u)

/-- Every command keeps the three: most leave them, the time-dependent ones start a registration. -/
theorem exec_keepsIdAndBusy {i : Instr} {s t : State} (h : exec i s = .next t) : s.KeepsIdAndBusy t := by
  cases i with
  | loadCylAddrHigh | loadCylAddrLow | loadAttributeNumber | loadTestByte | attentionControl | writeControl =>
    exact keepsIdAndBusy_of_respondStatus h (of_unchanged rfl rfl rfl rfl)
  | reportGeneralStatus | reportSenseByte1 | reportSenseByte2 | reportCylAddrHigh | reportCylAddrLow
  | reportTestByte =>
    cases h
    exact respond_keepsIdAndBusy _ s
  | selectiveReset | reformatTrack | spinControl | setAttention | rezero =>
    exact keepsIdAndBusy_of_respondStatus h (schedStart_keepsIdAndBusy _ _ s)
  | seek =>
    simp only [exec, execSeek] at h
    split at h
    · exact keepsIdAndBusy_of_respondStatus h (schedStart_keepsIdAndBusy _ _ s)
    · exact keepsIdAndBusy_of_respondStatus h (raiseIllegalParameter_keepsIdAndBusy s)
  | selectHead =>
    simp only [exec, execSelectHead] at h
    split at h
    · exact keepsIdAndBusy_of_respondStatus h (of_unchanged rfl rfl rfl rfl)
    · exact keepsIdAndBusy_of_respondStatus h (raiseIllegalParameter_keepsIdAndBusy s)
  | loadAttribute =>
    have hinit := attrEnsureInit_keepsIdAndBusy s
    simp only [exec, execLoadAttribute] at h
    split at h
    · exact keepsIdAndBusy_of_respondStatus h (hinit.trans (memWrite_keepsIdAndBusy _ _ _))
    · exact keepsIdAndBusy_of_respondStatus h (hinit.trans (raiseIllegalParameter_keepsIdAndBusy _))
  | reportAttribute =>
    have hinit := attrEnsureInit_keepsIdAndBusy s
    simp only [exec, execReportAttribute, memRead, attrEnsureInit_idem] at h
    split at h
    · cases h
      exact hinit.trans (respond_keepsIdAndBusy _ _)
    · exact keepsIdAndBusy_of_respondStatus h (hinit.trans (raiseIllegalParameter_keepsIdAndBusy _))
  | clearFault =>
    have hclears := (clearSense_keepsIdAndBusy .one (~~~faultPresent .one s.config) s).trans
      (clearSense_keepsIdAndBusy .two (~~~faultPresent .two s.config) _)
    exact keepsIdAndBusy_of_respondStatus h (hclears.trans (of_unchanged rfl rfl rfl rfl))
  | clearAttention =>
    refine keepsIdAndBusy_of_respondStatus h (of_unchanged rfl rfl ?_ rfl)
    simp [State.busyBit, illegalCommandMask, illegalParameterMask]
  | unrecognized code =>
    exact keepsIdAndBusy_of_respondStatus h (raiseIllegalCommand_keepsIdAndBusy s)

/-! ### The state rules -/

theorem ruleDisconnected_keepsIdAndBusy {smp : Sample} {s t : State} (h : ruleDisconnected smp s = .next t) :
    s.KeepsIdAndBusy t := by
  rcases ruleDisconnected_cases smp s with ⟨-, hr⟩ | ⟨-, hr⟩ <;> cases hr.symm.trans h <;>
    exact of_unchanged rfl rfl rfl rfl

/-- CONNECTED re-initializes on loss of enable (R107); else it moves the handshake only. -/
theorem ruleConnected_keepsIdAndBusy {smp : Sample} {s t : State} (h : ruleConnected smp s = .next t) :
    s.KeepsIdAndBusy t := by
  rcases ruleConnected_cases smp s with ⟨-, hr⟩ | ⟨-, -, -, -, hr⟩ | ⟨-, -, hr⟩
  · cases hr.symm.trans h
    exact (reinit_keepsIdAndBusy s).trans (of_unchanged rfl rfl rfl rfl)
  · cases hr.symm.trans h
    exact of_unchanged rfl rfl rfl rfl
  · cases hr.symm.trans h
    exact refl s

/-- No branch of SELECTED (R109) writes any of the three. -/
theorem ruleSelected_keepsIdAndBusy {smp : Sample} {s t : State} (h : ruleSelected smp s = .next t) :
    s.KeepsIdAndBusy t := by
  rcases ruleSelected_cases smp s with ⟨-, -, hr⟩ | ⟨-, -, hr⟩ | ⟨-, -, -, hr⟩ | ⟨-, -, -, -, -, -, hr⟩ |
    ⟨-, -, -, -, -, -, hr⟩ | ⟨-, -, -, -, hr⟩ | ⟨-, -, -, -, hr⟩ <;> cases hr.symm.trans h <;>
    exact of_unchanged rfl rfl rfl rfl

/-- AWAITING_TIME_DEPENDENT_COMMAND waits, completes the registration, or finds none (R119). -/
theorem ruleAwaitingTimeDependentCommand_keepsIdAndBusy {s t : State}
    (h : ruleAwaitingTimeDependentCommand s = .next t) : s.KeepsIdAndBusy t := by
  rcases ruleAwaitingTimeDependentCommand_cases s with ⟨-, -, hr⟩ | ⟨-, -, hr⟩ | ⟨-, hr⟩
  · cases hr.symm.trans h
    exact refl s
  · cases hr.symm.trans h
    exact (schedComplete_keepsIdAndBusy s).trans (of_unchanged rfl rfl rfl rfl)
  · cases hr.symm.trans h
    exact of_unchanged rfl rfl rfl rfl

/-- Every state rule that goes on keeps the three. -/
theorem stateRule_keepsIdAndBusy {smp : Sample} {s t : State} (h : stateRule smp s = .next t) :
    s.KeepsIdAndBusy t := by
  rcases stateRule_cases h with ⟨-, hr⟩ | ⟨-, hr⟩ | ⟨-, hr⟩ | ⟨-, rfl⟩ | ⟨-, ⟨-, -, rfl⟩ | ⟨-, rfl⟩⟩ |
    ⟨-, u, hexec, rfl⟩ | ⟨-, ⟨-, -, rfl⟩ | ⟨-, rfl⟩⟩ | ⟨-, hr⟩
  · exact ruleDisconnected_keepsIdAndBusy hr
  · exact ruleConnected_keepsIdAndBusy hr
  · exact ruleSelected_keepsIdAndBusy hr
  · -- READ_COMMAND latches the code
    exact of_unchanged rfl rfl rfl rfl
  · -- AWAITING_PARAM_OUT latches the parameter, or waits
    exact of_unchanged rfl rfl rfl rfl
  · exact refl _
  · -- EXECUTE_COMMAND raises the busy line, runs the command and moves the handshake
    have hline : s.KeepsIdAndBusy (assertBusyIf (commandIsTimeDependent s.config.codes s.cmd) s) :=
      of_unchanged rfl rfl rfl rfl
    exact (hline.trans (exec_keepsIdAndBusy hexec)).trans (of_unchanged rfl rfl rfl rfl)
  · -- AWAITING_PARAM_IN drives the response, or waits
    exact of_unchanged rfl rfl rfl rfl
  · exact refl _
  · exact ruleAwaitingTimeDependentCommand_keepsIdAndBusy hr

/-! ### The step -/

/-- A cycle that goes on keeps the three: its common phases, its state rule and the snapshot do. -/
theorem cycle_keepsIdAndBusy {smp : Sample} {dt : Time} {s t : State} (h : cycle smp dt s = .next t) :
    s.KeepsIdAndBusy t := by
  obtain ⟨u, hrule, rfl⟩ := cycle_next h
  exact ((commonPhases_keepsIdAndBusy smp dt s).trans (stateRule_keepsIdAndBusy hrule)).trans
    (of_unchanged rfl rfl rfl rfl)

theorem takeInput_keepsIdAndBusy (s : State) : s.KeepsIdAndBusy (takeInput s).2 := by
  obtain ⟨inputs, draws, htake⟩ := takeInput_state s
  rw [htake]
  exact of_unchanged rfl rfl rfl rfl

/-- Every step that goes on, a cycle or a fault-collaborator event, keeps the three. -/
theorem step_keepsIdAndBusy {s t : State} (h : step s = .next t) : s.KeepsIdAndBusy t := by
  obtain ⟨-, ⟨smp, dt, -, hcycle⟩ | ⟨n, m, -, rfl⟩⟩ := step_next h
  · exact (takeInput_keepsIdAndBusy s).trans (cycle_keepsIdAndBusy hcycle)
  · exact (takeInput_keepsIdAndBusy s).trans (setSense_keepsIdAndBusy n m _)

/-- The id at boot is the parameter `ID`, which an admissible configuration holds below 8 (R6, R21). -/
theorem boot_id_toNat {c : Config} (hc : c.admissible = true) : (State.boot c).id.toNat = c.deviceId := by
  have hid : c.deviceId < 8 := by
    rw [Config.admissible, Bool.and_eq_true] at hc
    exact of_decide_eq_true hc.1
  exact Nat.mod_eq_of_lt hid

/-! ### The obligations -/

/-- Settles O56: at reset by the boot state, along a step by what every step keeps. -/
theorem busyBitIsTheRegistration : Obligations.BusyBitIsTheRegistration :=
  ⟨boot_busyAgrees Config.reference, fun _ _ hs hstep => (step_keepsIdAndBusy hstep).busyAgrees hs⟩

/-- Settles O58: the id at boot by its range, along a step by what every step keeps. -/
theorem idAndParametersNeverChange : Obligations.IdAndParametersNeverChange :=
  ⟨fun _ hc => boot_id_toNat hc, fun _ _ hstep =>
    ⟨(step_keepsIdAndBusy hstep).id_eq, (step_keepsIdAndBusy hstep).config_eq⟩⟩

end Sys2Proof.Machine

/-! PROOF. The lazy initialization of the attribute table (20_memory.md R62): what it gives an initialized table and one
that is not, and what a read sees after a write. -/

namespace Sys2Proof.Machine

/-- On an initialized table the initialization does nothing. -/
theorem attrEnsureInit_of_initialized {s : State} (h : s.attributesInitialized = true) : attrEnsureInit s = s :=
  if_pos h

/-- On a table not yet initialized it derives every byte from the geometry, and the table and its flag are all it writes. -/
theorem attrEnsureInit_of_uninitialized {s : State} (h : s.attributesInitialized = false) :
    attrEnsureInit s = { s with
      attributes := Memory.ofTable (Config.attrInit s.config.geometry)
      attributesInitialized := true } :=
  if_neg (by simp [h])

/-- After the initialization the table reads, at every index, the entry the statements name. -/
theorem attrEnsureInit_read_initializedEntry (s : State) (i : Fin attributeTableSize) :
    (attrEnsureInit s).attributes.read i.val = initializedEntry s i :=
  attrEnsureInit_read s i

/-- A write leaves the table initialized, so the access after it does not initialize again. -/
theorem attrEnsureInit_memWrite (i : Fin attributeTableSize) (v : Byte) (s : State) :
    attrEnsureInit (memWrite i v s) = memWrite i v s :=
  attrEnsureInit_of_initialized (memWrite_attributesInitialized i v s)

/-- A read after a write answers the byte written at its index, and at another index what it answered before. -/
theorem memRead_memWrite {s : State} (h : s.attributes.wf) (i j : Fin attributeTableSize) (v : Byte) :
    (memRead j (memWrite i v s)).1 = if i = j then v else (memRead j s).1 := by
  calc (memRead j (memWrite i v s)).1
    _ = (memWrite i v s).attributes.read j.val := by rw [memRead, attrEnsureInit_memWrite]
    _ = if i.val = j.val then v else (attrEnsureInit s).attributes.read j.val := memWrite_read i v h j.val
    _ = if i = j then v else (memRead j s).1 := by simp only [Fin.val_inj, memRead]

/-- Settles O36: the initialized and the uninitialized table apart, then the read after a write. -/
theorem lazyInitializationRunsOnce : Obligations.LazyInitializationRunsOnce := by
  intro s
  refine ⟨attrEnsureInit_read_initializedEntry s, attrEnsureInit_attributesInitialized s,
    attrEnsureInit_of_initialized, attrEnsureInit_idem s, fun huninit => ?_, memRead_memWrite⟩
  rw [attrEnsureInit_of_uninitialized huninit]

end Sys2Proof.Machine

/-! PROOF. The codec both ways (30_encoding.md R84, R86): under an admissible map, decoding to a well-formed instruction is
having its code; from it the time-dependent class (R83). -/

namespace Sys2Proof

/-- Each row of the opcode table pairs a command with its own code (R84, R85). -/
theorem encode_of_mem_rows {m : CodeMap} {c : Byte} {i : Instr} (h : (c, i) ∈ m.rows) : encode m i = c :=
  have hcolumns : m.rows.map (fun r => encode m r.2) = m.rows.map Prod.fst := rfl
  List.map_inj_left.mp hcolumns (c, i) h

/-- Under every map the code of what a byte decodes to is that byte. -/
theorem encode_decode (m : CodeMap) (c : Byte) : encode m (decode m c) = c := by
  rcases lookupCode_cases c m.rows with hrow | ⟨hnone, -⟩
  · exact encode_of_mem_rows hrow
  · rw [decode, hnone, encode]

/-- A well-formed instruction has a row in the opcode table, or is a code that no row has. -/
theorem Instr.wf_cases {m : CodeMap} {i : Instr} (h : i.wf m = true) :
    (encode m i, i) ∈ m.rows ∨ ∃ c, i = .unrecognized c ∧ c ∉ m.codes := by
  cases i with
  | unrecognized c => exact .inr ⟨c, rfl, by simpa [Instr.wf] using h⟩
  | _ => exact .inl (by simp [CodeMap.rows, encode])

/-- A code outside the map decodes to itself, unrecognized (R86). -/
theorem decode_of_not_mem_codes {m : CodeMap} {c : Byte} (h : c ∉ m.codes) : decode m c = .unrecognized c := by
  rcases lookupCode_cases c m.rows with hrow | ⟨hnone, -⟩
  · exact absurd (m.rows_codes ▸ List.mem_map_of_mem hrow) h
  · exact hnone

/-- Under an admissible map the code of a well-formed instruction decodes to it. -/
theorem decode_encode {m : CodeMap} {i : Instr} (hm : m.admissible = true) (hi : i.wf m = true) :
    decode m (encode m i) = i := by
  rcases Instr.wf_cases hi with hrow | ⟨c, rfl, hc⟩
  · exact lookupCode_of_mem (m.rows_codes ▸ CodeMap.admissible_nodup hm) hrow
  · exact decode_of_not_mem_codes hc

/-- Under an admissible map a byte decodes to a well-formed instruction exactly when it is its code. -/
theorem decode_eq_iff {m : CodeMap} {i : Instr} (hm : m.admissible = true) (hi : i.wf m = true) (c : Byte) :
    decode m c = i ↔ c = encode m i := by
  constructor
  · rintro rfl
    exact (encode_decode m c).symm
  · rintro rfl
    exact decode_encode hm hi

/-- Settles O3: decoding to one of the six is having its code, and the class compares with those six codes. -/
theorem timeDependentCodesAreTheSix : Obligations.TimeDependentCodesAreTheSix := by
  intro m c hm
  have hcode (i : Instr) (hi : i.wf m = true) : decode m c = i ↔ c = encode m i := decode_eq_iff hm hi c
  rw [hcode .seek rfl, hcode .rezero rfl, hcode .setAttention rfl, hcode .selectiveReset rfl,
    hcode .reformatTrack rfl, hcode .spinControl rfl]
  simp only [commandIsTimeDependent, Bool.or_eq_true, beq_iff_eq, or_assoc, encode]

end Sys2Proof

/-! PROOF. A step on a listed cycle that starts in EXECUTE_COMMAND (40_bus_state_machine.md R100, R118). -/

namespace Sys2Proof.Machine

/-- Under an admissible configuration a step applies the listed input (R4, log 1). -/
theorem step_of_listed {s : State} {i : Input} {rest : List Input} (ha : s.config.admissible = true)
    (hi : s.inputs = i :: rest) : step s = applyInput i { s with inputs := rest } := by
  rw [step, pollStep, if_pos ha, takeInput_of_listed hi]

/-- The common phases leave EXECUTE_COMMAND, so its rule is the one that runs (R100). -/
theorem stateRule_commonPhases_executeCommand {s : State} (smp : Sample) (dt : Time)
    (hp : s.protocolState = .executeCommand) :
    stateRule smp (commonPhases smp dt s) = ruleExecuteCommand (commonPhases smp dt s) := by
  rw [stateRule, commonPhases_protocolState, hp]

/-- Settles O6: the step is the cycle, the cycle's rule is that of EXECUTE_COMMAND, and the common phases leave the code map
and the latched code; the outcomes of `exec` then agree one by one. -/
theorem stepRunsTheLatchedCommand : Obligations.StepRunsTheLatchedCommand := by
  rintro s smp dt rest _ ha hp hi rfl
  have hrule := stateRule_commonPhases_executeCommand (s := { s with inputs := rest }) smp dt hp
  rw [step_of_listed ha hi, applyInput, cycle, hrule, ruleExecuteCommand, commonPhases_config, commonPhases_cmd]
  cases exec (decode s.config.codes s.cmd) (assertBusyIf (commandIsTimeDependent s.config.codes s.cmd)
      (commonPhases smp dt { s with inputs := rest })) with
  | next u => rfl
  | fault r => rfl
  | refused r => rfl

end Sys2Proof.Machine

/-! PROOF. The executor on the bus: every command completes, and what it never writes (41_command_executor.md R140). -/

namespace Sys2Proof.Machine

/-- The bus side of a state: the handshake, the latches and the bookkeeping, which the executor never writes (R140). -/
structure BusSide where
  config : Config
  inputs : List Input
  draws : Nat
  id : DeviceId
  protocolState : ProtocolState
  previousPins : Sample
  cmd : Byte
  paramOut : Byte
  ackOut : Bool
  busyOut : Bool
  busOut : Byte
  busDrive : Bool
  modelFaults : List Fault
  refusalMark : Bool

/-- The bus side of a state; an equation between two of them is the executor's frame. -/
def State.busSide (s : State) : BusSide :=
  { config := s.config, inputs := s.inputs, draws := s.draws, id := s.id, protocolState := s.protocolState,
    previousPins := s.previousPins, cmd := s.cmd, paramOut := s.paramOut, ackOut := s.ackOut, busyOut := s.busyOut,
    busOut := s.busOut, busDrive := s.busDrive, modelFaults := s.modelFaults, refusalMark := s.refusalMark }

@[simp] theorem attrEnsureInit_busSide (s : State) : (attrEnsureInit s).busSide = s.busSide := by
  simp [State.busSide]

@[simp] theorem memWrite_busSide (i : Fin attributeTableSize) (v : Byte) (s : State) :
    (memWrite i v s).busSide = s.busSide := by
  simp [State.busSide]

@[simp] theorem respond_busSide (v : Byte) (s : State) : (respond v s).busSide = s.busSide := rfl

@[simp] theorem respondStatus_busSide (s : State) : (respondStatus s).busSide = s.busSide := rfl

@[simp] theorem raiseIllegalParameter_busSide (s : State) : (raiseIllegalParameter s).busSide = s.busSide := rfl

/-- Every command completes in every state and leaves the bus side: most write registers outright, four check an operand
first, and two of these access the table of R60. -/
theorem exec_completes (i : Instr) (s : State) : ∃ u, exec i s = .next u ∧ u.busSide = s.busSide := by
  cases i with
  | seek =>
    rw [exec, execSeek]
    split <;> exact ⟨_, rfl, rfl⟩
  | selectHead =>
    rw [exec, execSelectHead]
    split <;> exact ⟨_, rfl, rfl⟩
  | loadAttribute =>
    simp only [exec, execLoadAttribute]
    split <;> exact ⟨_, rfl, by simp⟩
  | reportAttribute =>
    simp only [exec, execReportAttribute, memRead]
    split <;> exact ⟨_, rfl, by simp⟩
  | clearFault => exact ⟨_, rfl, by simp [State.busSide]⟩
  | _ => exact ⟨_, rfl, rfl⟩

end Sys2Proof.Machine

/-! PROOF. The bus state machine, state by state (40_bus_state_machine.md R106 to R120): each rule's branches as equations,
then the cycle that takes them. -/

namespace Sys2Proof.Machine

/-! ### The rule of a cycle

The common phases leave the protocol state, so the rule of the state the cycle starts in is the one that runs (R100). -/

section
variable {s : State} (smp : Sample) (dt : Time)

theorem stateRule_commonPhases_disconnected (hp : s.protocolState = .disconnected) :
    stateRule smp (commonPhases smp dt s) = ruleDisconnected smp (commonPhases smp dt s) := by
  rw [stateRule, commonPhases_protocolState, hp]

theorem stateRule_commonPhases_connected (hp : s.protocolState = .connected) :
    stateRule smp (commonPhases smp dt s) = ruleConnected smp (commonPhases smp dt s) := by
  rw [stateRule, commonPhases_protocolState, hp]

theorem stateRule_commonPhases_selected (hp : s.protocolState = .selected) :
    stateRule smp (commonPhases smp dt s) = ruleSelected smp (commonPhases smp dt s) := by
  rw [stateRule, commonPhases_protocolState, hp]

theorem stateRule_commonPhases_awaitingParamOut (hp : s.protocolState = .awaitingParamOut) :
    stateRule smp (commonPhases smp dt s) = ruleAwaitingParamOut smp (commonPhases smp dt s) := by
  rw [stateRule, commonPhases_protocolState, hp]

theorem stateRule_commonPhases_awaitingParamIn (hp : s.protocolState = .awaitingParamIn) :
    stateRule smp (commonPhases smp dt s) = ruleAwaitingParamIn smp (commonPhases smp dt s) := by
  rw [stateRule, commonPhases_protocolState, hp]

/-- A cycle that starts in READING or WRITING refuses (R121). -/
theorem cycle_of_dataPhase (hp : s.protocolState = .reading ∨ s.protocolState = .writing) :
    cycle smp dt s = .refused .dataPhaseUnmodelled := by
  rw [cycle, stateRule, commonPhases_protocolState]
  rcases hp with hp | hp <;> rw [hp]

/-- In a handshake state a gate leaves its violation recorded by the common phases (R104). -/
theorem commonPhases_records_violation (hs : s.protocolState.isHandshake = true)
    (hgate : smp.readGate = true ∨ smp.writeGate = true) :
    Fault.protocolViolation ∈ (commonPhases smp dt s).modelFaults := by
  rw [commonPhases_modelFaults, if_pos (by simpa [hs] using hgate), mem_recordFault]
  exact .inl rfl

end

/-! ### The branches of the rules -/

section
variable {smp : Sample} {s : State}

/-- The first branch of R109: the command request (R110). -/
theorem ruleSelected_of_request (hreq : smp.dir = .h2d ∧ smp.cmdReq = true) :
    ruleSelected smp s = .next { s with protocolState := .readCommand } :=
  if_pos (by simpa using hreq)

/-- The second branch of R109: the read gate (R111). -/
theorem ruleSelected_of_readGate (hreq : ¬(smp.dir = .h2d ∧ smp.cmdReq = true)) (hread : smp.readGate = true) :
    ruleSelected smp s = .next { s with protocolState := .reading } := by
  rw [ruleSelected, if_neg (by simpa using hreq), if_pos hread]

/-- The third branch of R109: the write gate (R112). -/
theorem ruleSelected_of_writeGate (hreq : ¬(smp.dir = .h2d ∧ smp.cmdReq = true)) (hread : smp.readGate = false)
    (hwrite : smp.writeGate = true) : ruleSelected smp s = .next { s with protocolState := .writing } := by
  rw [ruleSelected, if_neg (by simpa using hreq), if_neg (by simp [hread]), if_pos hwrite]

/-- The fourth branch of R109: the strobe host to device, by the mask bit (R113). -/
theorem ruleSelected_of_strobe (hreq : smp.cmdReq = false) (hread : smp.readGate = false)
    (hwrite : smp.writeGate = false) (hsel : smp.sel = true) (hdir : smp.dir = .h2d) :
    ruleSelected smp s = .next
      (if selectedBy smp.bus s.id then { s with ackOut := true } else { s with protocolState := .connected }) := by
  rw [ruleSelected, if_neg (by simp [hreq]), if_neg (by simp [hread]), if_neg (by simp [hwrite]),
    if_pos (by simp [hsel, hdir])]
  split <;> rfl

/-- AWAITING_PARAM_OUT on its request (R117). -/
theorem ruleAwaitingParamOut_of_request (hreq : smp.dir = .h2d ∧ smp.paramReq = true) :
    ruleAwaitingParamOut smp s =
      .next { s with paramOut := smp.bus, ackOut := true, protocolState := .executeCommand } :=
  if_pos (by simpa using hreq)

/-- AWAITING_PARAM_OUT without its request waits (R117). -/
theorem ruleAwaitingParamOut_of_no_request (hreq : ¬(smp.dir = .h2d ∧ smp.paramReq = true)) :
    ruleAwaitingParamOut smp s = .next s :=
  if_neg (by simpa using hreq)

/-- AWAITING_PARAM_IN on its request (R120). -/
theorem ruleAwaitingParamIn_of_request (hreq : smp.dir = .d2h ∧ smp.paramReq = true) :
    ruleAwaitingParamIn smp s = .next { s with
      busOut := s.paramIn
      ackOut := true
      protocolState :=
        if commandIsTimeDependent s.config.codes s.cmd then .awaitingTimeDependentCommand else .selected } :=
  if_pos (by simpa using hreq)

/-- AWAITING_PARAM_IN without its request waits (R120). -/
theorem ruleAwaitingParamIn_of_no_request (hreq : ¬(smp.dir = .d2h ∧ smp.paramReq = true)) :
    ruleAwaitingParamIn smp s = .next s :=
  if_neg (by simpa using hreq)

end

/-- Where EXECUTE_COMMAND goes, by bit 7 of the code: set for the response class (R81, R118). -/
theorem afterExecute_eq (codes : CodeMap) (cmd : Byte) :
    afterExecute codes cmd =
      if cmd.getLsbD 7 then .awaitingParamIn
      else if commandIsTimeDependent codes cmd then .awaitingTimeDependentCommand else .selected := by
  rw [afterExecute, commandIsParamOut]
  cases cmd.getLsbD 7 <;> rfl

/-! ### The obligations -/

/-- Settles O13: the enable line up moves the state only, and the line low leaves DISCONNECTED as it was. -/
theorem disconnectedWaitsForEnable : Obligations.DisconnectedWaitsForEnable := by
  intro smp dt s hp
  have hstate : (commonPhases smp dt s).protocolState = .disconnected := (commonPhases_protocolState smp dt s).trans hp
  have hrule := stateRule_commonPhases_disconnected smp dt hp
  rcases ruleDisconnected_cases smp (commonPhases smp dt s) with ⟨henable, hr⟩ | ⟨henable, hr⟩
  · rw [cycle_of_stateRule (hrule.trans hr), henable, if_pos rfl]
  · rw [cycle_of_stateRule (hrule.trans hr), henable, if_neg Bool.false_ne_true, ← hstate]

/-- Settles O15: of the three branches of CONNECTED the enable line leaves the selection and the wait. -/
theorem selectionIsTheMaskBit : Obligations.SelectionIsTheMaskBit := by
  intro smp dt s hp henable
  have hrule := stateRule_commonPhases_connected smp dt hp
  rcases ruleConnected_cases smp (commonPhases smp dt s) with ⟨hlow, -⟩ | ⟨-, hsel, hdir, hmask, hr⟩ | ⟨-, hno, hr⟩
  · exact absurd (henable.symm.trans hlow) Bool.noConfusion
  · rw [commonPhases_id] at hmask
    exact ⟨_, cycle_of_stateRule (hrule.trans hr), iff_of_true rfl ⟨hsel, hdir, hmask⟩, fun _ => rfl,
      fun hne => absurd rfl hne⟩
  · rw [commonPhases_id] at hno
    have hstays : (commonPhases smp dt s).protocolState ≠ .selected := by simp [hp]
    exact ⟨_, cycle_of_stateRule (hrule.trans hr), iff_of_false hstays hno, fun hs => absurd hs hstays, fun _ => rfl⟩

/-- Settles O16: the first three branches of R109, and the refusal of a cycle after a gate. -/
theorem selectedRequestBeforeGates : Obligations.SelectedRequestBeforeGates := by
  intro smp dt s hp
  have hrule := stateRule_commonPhases_selected smp dt hp
  refine ⟨fun hreq => ?_, fun hreq hread => ?_, fun hreq hread hwrite => ?_⟩
  · exact cycle_of_stateRule (hrule.trans (ruleSelected_of_request hreq))
  · exact ⟨_, cycle_of_stateRule (hrule.trans (ruleSelected_of_readGate hreq hread)), rfl,
      fun smp' dt' => cycle_of_dataPhase smp' dt' (.inl rfl)⟩
  · exact ⟨_, cycle_of_stateRule (hrule.trans (ruleSelected_of_writeGate hreq hread hwrite)), rfl,
      fun smp' dt' => cycle_of_dataPhase smp' dt' (.inr rfl)⟩

/-- Settles O17: the fourth branch of R109, split by the mask bit. -/
theorem reselectionFollowsTheMask : Obligations.ReselectionFollowsTheMask := by
  intro smp dt s hp hreq hread hwrite hsel hdir
  have hrule :=
    (stateRule_commonPhases_selected smp dt hp).trans (ruleSelected_of_strobe hreq hread hwrite hsel hdir)
  have hbit : selectedBy smp.bus (commonPhases smp dt s).id = smp.bus.getLsbD s.id.toNat := by
    rw [commonPhases_id, selectedBy]
  rw [← hbit, cycle_of_stateRule hrule]
  split <;> rfl

/-- Settles O20: the request apart from the wait; either keeps the violation that the common phases record for a gate. -/
theorem paramOutLatchedOnRequest : Obligations.ParamOutLatchedOnRequest := by
  intro smp dt s hp
  have hrule := stateRule_commonPhases_awaitingParamOut smp dt hp
  have hlatch (hreq : smp.dir = .h2d ∧ smp.paramReq = true) :=
    cycle_of_stateRule (hrule.trans (ruleAwaitingParamOut_of_request hreq))
  have hwait (hreq : ¬(smp.dir = .h2d ∧ smp.paramReq = true)) :=
    cycle_of_stateRule (hrule.trans (ruleAwaitingParamOut_of_no_request hreq))
  refine ⟨hlatch, hwait, fun t hcycle hgate => ?_⟩
  have hviolation := commonPhases_records_violation smp dt (by rw [hp]; rfl) hgate
  by_cases hreq : smp.dir = .h2d ∧ smp.paramReq = true
  · cases (hlatch hreq).symm.trans hcycle
    exact hviolation
  · cases (hwait hreq).symm.trans hcycle
    exact hviolation

/-- Settles O21: the command completes, so the cycle does; the busy line and the fault set are on the bus side, where the
command leaves what the common phases and `assertBusyIf` made them. -/
theorem executeCommandCompletes : Obligations.ExecuteCommandCompletes := by
  intro smp dt s hp
  obtain ⟨u, hexec, hside⟩ := exec_completes (decode s.config.codes s.cmd)
    (assertBusyIf (commandIsTimeDependent s.config.codes s.cmd) (commonPhases smp dt s))
  have hrule : stateRule smp (commonPhases smp dt s) =
      .next { u with protocolState := afterExecute s.config.codes s.cmd } := by
    rw [stateRule_commonPhases_executeCommand smp dt hp, ruleExecuteCommand, commonPhases_config, commonPhases_cmd, hexec]
  refine ⟨u, _, hexec, cycle_of_stateRule hrule, ?_, ?_, fun hgate => ?_⟩
  · rw [afterExecute_eq]
  · have hbusy : u.busyOut = _ := congrArg BusSide.busyOut hside
    exact hbusy.trans (by rw [State.busSide, assertBusyIf_busyOut, commonPhases_busyOut])
  · have hfaults : u.modelFaults = (commonPhases smp dt s).modelFaults := congrArg BusSide.modelFaults hside
    exact hfaults ▸ commonPhases_records_violation smp dt (by rw [hp]; rfl) hgate

/-- Settles O22: the request apart from the wait; on the request the device drives the bus, since the direction follows the
sample (R101), and either keeps the violation that the common phases record for a gate. -/
theorem paramInSentOnRequest : Obligations.ParamInSentOnRequest := by
  intro smp dt s hp
  have hrule := stateRule_commonPhases_awaitingParamIn smp dt hp
  have hsend (hreq : smp.dir = .d2h ∧ smp.paramReq = true) :=
    cycle_of_stateRule (hrule.trans (ruleAwaitingParamIn_of_request hreq))
  have hwait (hreq : ¬(smp.dir = .d2h ∧ smp.paramReq = true)) :=
    cycle_of_stateRule (hrule.trans (ruleAwaitingParamIn_of_no_request hreq))
  refine ⟨fun hreq => ?_, hwait, fun t hcycle hgate => ?_⟩
  · have hdrive : (commonPhases smp dt s).busDrive = true := by simp [hreq.1]
    rw [← commonPhases_paramIn smp dt s, ← commonPhases_config smp dt s, ← commonPhases_cmd smp dt s]
    exact ⟨_, hsend hreq, rfl, if_pos hdrive⟩
  have hviolation := commonPhases_records_violation smp dt (by rw [hp]; rfl) hgate
  by_cases hreq : smp.dir = .d2h ∧ smp.paramReq = true
  · cases (hsend hreq).symm.trans hcycle
    exact hviolation
  · cases (hwait hreq).symm.trans hcycle
    exact hviolation

end Sys2Proof.Machine

/-! PROOF. The encoding of a command under the reference map (30_encoding.md R82 to R85): its code, its class and whether it
is time-dependent, for all commands at once. -/

namespace Sys2Proof.Machine

/-- The reference map meets the three constraints of R84. -/
theorem reference_admissible : CodeMap.reference.admissible = true := by decide

/-- Under an admissible map the code of a well-formed instruction is classed as the instruction is (R83). -/
theorem commandIsTimeDependent_encode {m : CodeMap} {i : Instr} (hm : m.admissible = true) (hi : i.wf m = true) :
    commandIsTimeDependent m (encode m i) = isTimeDependentCommand i := by
  rw [Bool.eq_iff_iff, timeDependentCodesAreTheSix m _ hm, decode_encode hm hi]
  cases i <;> simp [isTimeDependentCommand]

/-- A well-formed instruction is encoded under the reference map by its code there, with its own two classes. -/
theorem encodedAs_encode {i : Instr} (hi : i.wf CodeMap.reference = true) (hclass : Laws.ClassBit.Statement i) :
    EncodedAs i (encode CodeMap.reference i) i.takesParameter (isTimeDependentCommand i) :=
  ⟨decode_encode reference_admissible hi, rfl, hclass _ reference_admissible,
    commandIsTimeDependent_encode reference_admissible hi⟩

end Sys2Proof.Machine

/-! PROOF. Reports and loads of the executor (41_command_executor.md sections 2 and 5): what the initialization and
a write of the table leave unchanged, the two branches of LOAD_ATTRIBUTE, and the commands that only move a register. -/

namespace Sys2Proof.Machine

/-! ### LOAD_ATTRIBUTE -/

/-- The initialization writes the table and its flag only (R62). -/
theorem attrEnsureInit_frame (s : State) :
    attrEnsureInit s = { s with attributes := (attrEnsureInit s).attributes, attributesInitialized := true } := by
  cases hinit : s.attributesInitialized with
  | false => rw [attrEnsureInit_of_uninitialized hinit]
  | true => rw [attrEnsureInit_of_initialized hinit, ← hinit]

/-- A table write, too, writes the table and its flag only (R61). -/
theorem memWrite_frame (i : Fin attributeTableSize) (v : Byte) (s : State) :
    memWrite i v s = { s with attributes := (memWrite i v s).attributes, attributesInitialized := true } :=
  congrArg (fun u : State => { u with attributes := (memWrite i v s).attributes }) (attrEnsureInit_frame s)

/-- Initializing before a write adds nothing: the write initializes by itself. -/
theorem memWrite_attrEnsureInit (i : Fin attributeTableSize) (v : Byte) (s : State) :
    memWrite i v (attrEnsureInit s) = memWrite i v s := by
  rw [memWrite, attrEnsureInit_idem, memWrite]

/-- Inside the table the parameter is written at the index, then the default response (R157). -/
theorem exec_loadAttribute_of_lt {s : State} (h : s.attributeNumber.toNat < attributeTableSize) :
    exec .loadAttribute s = .next (respondStatus (memWrite ⟨s.attributeNumber.toNat, h⟩ s.paramOut s)) := by
  rw [exec, execLoadAttribute, dif_pos h, memWrite_attrEnsureInit]

/-- Beyond the table the error is raised, on a table that is initialized all the same (R157). -/
theorem exec_loadAttribute_of_le {s : State} (h : attributeTableSize ≤ s.attributeNumber.toNat) :
    exec .loadAttribute s = .next (respondStatus (raiseIllegalParameter (attrEnsureInit s))) := by
  rw [exec, execLoadAttribute, dif_neg h.not_gt]

/-- Settles O35: below 72 the command is a table write and otherwise a raised error, and the two frames
say what each leaves. -/
theorem loadAttributeCompletes : Obligations.LoadAttributeCompletes := by
  refine ⟨encodedAs_encode rfl Laws.ClassBit.loadAttribute, fun s hwf => ?_⟩
  rcases Nat.lt_or_ge s.attributeNumber.toNat attributeTableSize with hlt | hle
  · refine ⟨_, exec_loadAttribute_of_lt hlt, fun _ => ⟨fun i => ?_, ?_⟩, fun hle => absurd hlt hle.not_gt⟩
    · rw [respondStatus_attributes, memWrite_read _ _ hwf, attrEnsureInit_read_initializedEntry]
      simp only [eq_comm]
    · exact congrArg respondStatus (memWrite_frame _ _ s)
  · refine ⟨_, exec_loadAttribute_of_le hle, fun hlt => absurd hlt hle.not_gt, fun _ => ⟨fun i => ?_, ?_⟩⟩
    · exact attrEnsureInit_read_initializedEntry s i
    · exact congrArg (fun u => respondStatus (raiseIllegalParameter u)) (attrEnsureInit_frame s)

/-! ### The commands that only move a register -/

/-- Settles O32: each report is one write of `param_in`. -/
theorem senseAndTestReports : Obligations.SenseAndTestReports :=
  ⟨fun _ => ⟨rfl, rfl, rfl⟩, encodedAs_encode rfl Laws.ClassBit.reportSenseByte1,
    encodedAs_encode rfl Laws.ClassBit.reportSenseByte2, encodedAs_encode rfl Laws.ClassBit.reportTestByte, rfl⟩

/-- Settles O37: each load is one write of its register, then the default response, whose status the write left (R141). -/
theorem cylinderAndTestLoads : Obligations.CylinderAndTestLoads :=
  ⟨fun _ => ⟨rfl, rfl, rfl⟩, encodedAs_encode rfl Laws.ClassBit.loadCylAddrHigh,
    encodedAs_encode rfl Laws.ClassBit.loadCylAddrLow, encodedAs_encode rfl Laws.ClassBit.loadTestByte⟩

end Sys2Proof.Machine

/-! PROOF. The registration along a cycle (42_scheduler.md R201 to R208): its flag, duration and action are written by a
started registration, a completing poll and a re-initialization, and by nothing else. -/

namespace Sys2Proof.Machine

/-- The registration without its elapsed time: what R208 says stays until it ends. -/
def State.registration (s : State) : Bool × Time × SchedAction := (s.schedActive, s.schedDuration, s.schedAction)

@[simp] theorem attrEnsureInit_registration (s : State) : (attrEnsureInit s).registration = s.registration := by
  simp [State.registration]

@[simp] theorem memWrite_registration (i : Fin attributeTableSize) (v : Byte) (s : State) :
    (memWrite i v s).registration = s.registration := by
  simp [State.registration]

@[simp] theorem clearSense_registration (n : SenseByte) (m : Byte) (s : State) :
    (clearSense n m s).registration = s.registration := by
  simp [State.registration]

@[simp] theorem commonPhases_registration (smp : Sample) (dt : Time) (s : State) :
    (commonPhases smp dt s).registration = s.registration := by
  simp [State.registration]

/-! ### The poll -/

/-- The elapsed time that the common phases leave is the one the statements name (R103, R202). -/
theorem commonPhases_schedElapsed_toNat (smp : Sample) (dt : Time) (s : State) :
    (commonPhases smp dt s).schedElapsed.toNat = elapsedSeen dt s := by
  rw [commonPhases_schedElapsed, elapsedSeen]
  split
  · exact sat32Add_toNat s.schedElapsed dt
  · rfl

/-- The poll of an active registration completes exactly when the elapsed time it sees reaches the duration (R203). -/
theorem pollCompletes_iff_of_active (dt : Time) {s : State} (hactive : s.schedActive = true) :
    pollCompletes dt s = true ↔ s.schedDuration.toNat ≤ elapsedSeen dt s := by
  simp [pollCompletes, hactive]

/-! ### What writes the registration -/

/-- A command leaves the registration, or is time-dependent and starts one, of which the response is all that is left to
do (R201, R141). -/
theorem exec_registration {i : Instr} {s t : State} (h : exec i s = .next t) :
    t.registration = s.registration ∨
      (isTimeDependentCommand i = true ∧ ∃ d a, t = respondStatus (schedStart d a s)) := by
  cases i with
  | rezero | setAttention | selectiveReset | reformatTrack | spinControl =>
    cases h
    exact .inr ⟨rfl, _, _, rfl⟩
  | seek =>
    simp only [exec, execSeek] at h
    split at h <;> cases h
    · exact .inr ⟨rfl, _, _, rfl⟩
    · exact .inl rfl
  | selectHead =>
    simp only [exec, execSelectHead] at h
    split at h <;> cases h <;> exact .inl rfl
  | loadAttribute =>
    rcases Nat.lt_or_ge s.attributeNumber.toNat attributeTableSize with hlt | hle
    · cases (exec_loadAttribute_of_lt hlt).symm.trans h
      exact .inl (memWrite_registration ⟨_, hlt⟩ s.paramOut s)
    · cases (exec_loadAttribute_of_le hle).symm.trans h
      exact .inl (attrEnsureInit_registration s)
  | reportAttribute =>
    simp only [exec, execReportAttribute, memRead, attrEnsureInit_idem] at h
    split at h <;> cases h <;> exact .inl (attrEnsureInit_registration s)
  | clearFault =>
    cases h
    exact .inl ((clearSense_registration _ _ _).trans (clearSense_registration _ _ s))
  | _ =>
    cases h
    exact .inl rfl

/-- Everything a state rule that goes on can do to the registration: leave it, complete it, start another over it, or drop
it by re-initialization. -/
theorem stateRule_registration {smp : Sample} {s t : State} (h : stateRule smp s = .next t) :
    t.registration = s.registration ∨
      (s.protocolState = .awaitingTimeDependentCommand ∧ s.schedDuration.toNat ≤ s.schedElapsed.toNat ∧
        t = { schedComplete s with busyOut := false, attentionPending := true, protocolState := .selected }) ∨
      (s.protocolState = .executeCommand ∧ isTimeDependentCommand (decode s.config.codes s.cmd) = true ∧
        ∃ d a, t = { respondStatus (schedStart d a (assertBusyIf (commandIsTimeDependent s.config.codes s.cmd) s)) with
          protocolState := afterExecute s.config.codes s.cmd }) ∨
      (s.protocolState = .connected ∧ smp.enable = false ∧ t = { reinit s with protocolState := .disconnected }) := by
  rcases stateRule_cases h with ⟨-, hr⟩ | ⟨hp, hr⟩ | ⟨-, hr⟩ | ⟨-, rfl⟩ | ⟨-, ⟨-, -, rfl⟩ | ⟨-, rfl⟩⟩ |
    ⟨hp, u, hexec, rfl⟩ | ⟨-, ⟨-, -, rfl⟩ | ⟨-, rfl⟩⟩ | ⟨hp, hr⟩
  · rcases ruleDisconnected_cases smp s with ⟨-, hd⟩ | ⟨-, hd⟩ <;> cases hd.symm.trans hr <;> exact .inl rfl
  · rcases ruleConnected_cases smp s with ⟨henable, hc⟩ | ⟨-, -, -, -, hc⟩ | ⟨-, -, hc⟩ <;> cases hc.symm.trans hr
    · exact .inr (.inr (.inr ⟨hp, henable, rfl⟩))
    · exact .inl rfl
    · exact .inl rfl
  · rcases ruleSelected_cases smp s with ⟨-, -, hs⟩ | ⟨-, -, hs⟩ | ⟨-, -, -, hs⟩ | ⟨-, -, -, -, -, -, hs⟩ |
      ⟨-, -, -, -, -, -, hs⟩ | ⟨-, -, -, -, hs⟩ | ⟨-, -, -, -, hs⟩ <;> cases hs.symm.trans hr <;> exact .inl rfl
  · -- READ_COMMAND writes the code latch
    exact .inl rfl
  · -- AWAITING_PARAM_OUT writes the parameter latch, or waits
    exact .inl rfl
  · exact .inl rfl
  · -- EXECUTE_COMMAND leaves the registration to the command
    rcases exec_registration hexec with hstays | ⟨htd, d, a, rfl⟩
    · exact .inl hstays
    · exact .inr (.inr (.inl ⟨hp, htd, d, a, rfl⟩))
  · -- AWAITING_PARAM_IN drives the response, or waits
    exact .inl rfl
  · exact .inl rfl
  · rcases ruleAwaitingTimeDependentCommand_cases s with ⟨-, -, ha⟩ | ⟨-, hdue, ha⟩ | ⟨-, ha⟩ <;>
      cases ha.symm.trans hr
    · exact .inl rfl
    · exact .inr (.inl ⟨hp, hdue, rfl⟩)
    · exact .inl rfl

/-! ### The obligation -/

/-- Settles O31: the four things a state rule can do to the registration, seen from the state before the common phases,
which leave the registration and the position. -/
theorem registrationIsNeverCancelled : Obligations.RegistrationIsNeverCancelled := by
  intro smp dt s t hcycle hactive
  obtain ⟨u, hrule, rfl⟩ := cycle_next hcycle
  rcases stateRule_registration hrule with hstays | ⟨hp, hdue, rfl⟩ | ⟨hp, htd, d, a, rfl⟩ | ⟨hp, henable, rfl⟩
  · rw [commonPhases_registration] at hstays
    simp only [State.registration, Prod.mk.injEq] at hstays
    obtain ⟨hflag, hduration, haction⟩ := hstays
    exact .inl ⟨hflag.trans hactive, hduration, haction⟩
  · rw [commonPhases_protocolState] at hp
    rw [commonPhases_schedDuration, commonPhases_schedElapsed_toNat] at hdue
    exact .inr (.inl ⟨hp, (pollCompletes_iff_of_active dt hactive).mpr hdue, rfl⟩)
  · rw [commonPhases_protocolState] at hp
    rw [commonPhases_config, commonPhases_cmd] at htd
    exact .inr (.inr (.inl ⟨hp, htd, rfl, rfl, commonPhases_currentCylinderHigh smp dt s,
      commonPhases_currentCylinderLow smp dt s⟩))
  · rw [commonPhases_protocolState] at hp
    exact .inr (.inr (.inr ⟨hp, henable, rfl, rfl, rfl⟩))

end Sys2Proof.Machine

/-! PROOF. The outcomes of a step (60_exceptions.md R220, R234): a state rule, a cycle and a step go on or refuse, and
none of them answers a fault. -/

namespace Sys2Proof.Machine

/-! ### The state rules that always go on -/

section
variable (smp : Sample) (s : State)

theorem ruleDisconnected_goesOn : ∃ t, ruleDisconnected smp s = .next t := by
  rcases ruleDisconnected_cases smp s with ⟨-, hr⟩ | ⟨-, hr⟩ <;> exact ⟨_, hr⟩

theorem ruleConnected_goesOn : ∃ t, ruleConnected smp s = .next t := by
  rcases ruleConnected_cases smp s with ⟨-, hr⟩ | ⟨-, -, -, -, hr⟩ | ⟨-, -, hr⟩ <;> exact ⟨_, hr⟩

theorem ruleSelected_goesOn : ∃ t, ruleSelected smp s = .next t := by
  rcases ruleSelected_cases smp s with ⟨-, -, hr⟩ | ⟨-, -, hr⟩ | ⟨-, -, -, hr⟩ | ⟨-, -, -, -, -, -, hr⟩ |
    ⟨-, -, -, -, -, -, hr⟩ | ⟨-, -, -, -, hr⟩ | ⟨-, -, -, -, hr⟩ <;> exact ⟨_, hr⟩

theorem ruleAwaitingParamOut_goesOn : ∃ t, ruleAwaitingParamOut smp s = .next t := by
  rw [ruleAwaitingParamOut]
  split <;> exact ⟨_, rfl⟩

/-- EXECUTE_COMMAND goes on because every command completes (R140). -/
theorem ruleExecuteCommand_goesOn : ∃ t, ruleExecuteCommand s = .next t := by
  obtain ⟨u, hexec, -⟩ := exec_completes (decode s.config.codes s.cmd)
    (assertBusyIf (commandIsTimeDependent s.config.codes s.cmd) s)
  rw [ruleExecuteCommand, hexec]
  exact ⟨_, rfl⟩

theorem ruleAwaitingParamIn_goesOn : ∃ t, ruleAwaitingParamIn smp s = .next t := by
  rw [ruleAwaitingParamIn]
  split <;> exact ⟨_, rfl⟩

theorem ruleAwaitingTimeDependentCommand_goesOn : ∃ t, ruleAwaitingTimeDependentCommand s = .next t := by
  rcases ruleAwaitingTimeDependentCommand_cases s with ⟨-, -, hr⟩ | ⟨-, -, hr⟩ | ⟨-, hr⟩ <;> exact ⟨_, hr⟩

end

/-! ### The rule of a state, the cycle, the step -/

/-- A state rule refuses in READING and WRITING and goes on in every other state (R121). -/
theorem stateRule_outcome (smp : Sample) (s : State) :
    (∃ t, stateRule smp s = .next t) ∨
      ((s.protocolState = .reading ∨ s.protocolState = .writing) ∧
        stateRule smp s = .refused .dataPhaseUnmodelled) := by
  rw [stateRule]
  cases s.protocolState with
  | disconnected => exact .inl (ruleDisconnected_goesOn smp s)
  | connected => exact .inl (ruleConnected_goesOn smp s)
  | selected => exact .inl (ruleSelected_goesOn smp s)
  | readCommand => exact .inl ⟨_, rfl⟩
  | awaitingParamOut => exact .inl (ruleAwaitingParamOut_goesOn smp s)
  | executeCommand => exact .inl (ruleExecuteCommand_goesOn s)
  | awaitingParamIn => exact .inl (ruleAwaitingParamIn_goesOn smp s)
  | awaitingTimeDependentCommand => exact .inl (ruleAwaitingTimeDependentCommand_goesOn s)
  | reading => exact .inr ⟨.inl rfl, rfl⟩
  | writing => exact .inr ⟨.inr rfl, rfl⟩

/-- A cycle refuses when it starts in READING or WRITING and goes on in every other state (R100, R121). -/
theorem cycle_outcome (smp : Sample) (dt : Time) (s : State) :
    (∃ t, cycle smp dt s = .next t) ∨
      ((s.protocolState = .reading ∨ s.protocolState = .writing) ∧
        cycle smp dt s = .refused .dataPhaseUnmodelled) := by
  rcases stateRule_outcome smp (commonPhases smp dt s) with ⟨u, hu⟩ | ⟨hp, -⟩
  · exact .inl ⟨_, cycle_of_stateRule hu⟩
  · rw [commonPhases_protocolState] at hp
    exact .inr ⟨hp, cycle_of_dataPhase smp dt hp⟩

/-- A step goes on or refuses. -/
theorem step_next_or_refused (s : State) : (∃ t, step s = .next t) ∨ ∃ r, step s = .refused r := by
  rw [step, pollStep]
  split
  · cases (takeInput s).1 with
    | cycle smp dt =>
      rcases cycle_outcome smp dt (takeInput s).2 with hnext | ⟨-, hrefused⟩
      · exact .inl hnext
      · exact .inr ⟨_, hrefused⟩
    | sense n mask => exact .inl ⟨_, rfl⟩
  · exact .inr ⟨_, rfl⟩

/-- Settles O7: the two outcomes a step can have, and neither is a fault. -/
theorem noStepFaults : Obligations.NoStepFaults := by
  intro s r hfault
  rcases step_next_or_refused s with ⟨t, hnext⟩ | ⟨q, hrefused⟩
  · exact nomatch hfault.symm.trans hnext
  · exact nomatch hfault.symm.trans hrefused

end Sys2Proof.Machine

/-! PROOF. ILLEGAL_PARAMETER and the attention condition along a cycle (60_exceptions.md R222, R227, R229). An illegal
parameter raises both and CLEAR_ATTENTION clears both, so one walk over the model carries the two together. -/

namespace Sys2Proof.Machine

/-- The ILLEGAL_PARAMETER bit and the attention condition. -/
def State.alarms (s : State) : Bool × Bool := (s.illegalParameterBit, s.attentionPending)

/-! ### The shared operations -/

/-- ILLEGAL_PARAMETER is no summary bit (R28). -/
theorem summaryMask_illegalParameterBit (n : SenseByte) : (summaryMask n)[2] = false := by
  cases n <;> decide

@[simp] theorem raiseIllegalParameter_alarms (s : State) : (raiseIllegalParameter s).alarms = (true, true) := by
  simp [State.alarms, State.illegalParameterBit, illegalParameterMask]

@[simp] theorem raiseIllegalCommand_alarms (s : State) : (raiseIllegalCommand s).alarms = s.alarms := by
  simp [State.alarms, State.illegalParameterBit, illegalCommandMask]

@[simp] theorem respondStatus_alarms (s : State) : (respondStatus s).alarms = s.alarms := rfl

@[simp] theorem attrEnsureInit_alarms (s : State) : (attrEnsureInit s).alarms = s.alarms := by
  simp [State.alarms, State.illegalParameterBit]

@[simp] theorem memWrite_alarms (i : Fin attributeTableSize) (v : Byte) (s : State) :
    (memWrite i v s).alarms = s.alarms := by
  simp [State.alarms, State.illegalParameterBit]

@[simp] theorem schedStart_alarms (d : Time) (a : SchedAction) (s : State) : (schedStart d a s).alarms = s.alarms := by
  simp [State.alarms, State.illegalParameterBit, busyMask]

@[simp] theorem commonPhases_alarms (smp : Sample) (dt : Time) (s : State) :
    (commonPhases smp dt s).alarms = s.alarms := by
  simp [State.alarms, State.illegalParameterBit]

theorem commonPhases_illegalParameterBit (smp : Sample) (dt : Time) (s : State) :
    (commonPhases smp dt s).illegalParameterBit = s.illegalParameterBit :=
  congrArg Prod.fst (commonPhases_alarms smp dt s)

/-- A byte is not 0 exactly when one of its bits is set. -/
theorem ne_zero_iff_exists_bit (v : Byte) : v ≠ 0 ↔ ∃ b < 8, v.getLsbD b = true := by
  simp [BitVec.eq_of_getLsbD_eq_iff]

/-! ### The commands -/

/-- What a command makes of the two (R142, R150, R151): illegal operands raise both, CLEAR_FAULT clears the condition,
CLEAR_ATTENTION clears both, and every other command leaves them. -/
def alarmsAfter (i : Instr) (s : State) : Bool × Bool :=
  if raisesIllegalParameter i s then (true, true)
  else if i = .clearFault then (s.illegalParameterBit, false)
  else if i = .clearAttention then (false, false)
  else s.alarms

/-- A command on legal operands that is neither clear leaves the two. -/
theorem alarmsAfter_of_kept {i : Instr} {s : State} (hr : raisesIllegalParameter i s = false)
    (hi : i ≠ .clearFault ∧ i ≠ .clearAttention) : alarmsAfter i s = s.alarms := by
  rw [alarmsAfter, if_neg (by simp [hr]), if_neg hi.1, if_neg hi.2]

/-- Illegal operands raise both. -/
theorem alarmsAfter_of_raised {i : Instr} {s : State} (hr : raisesIllegalParameter i s = true) :
    alarmsAfter i s = (true, true) :=
  if_pos hr

/-- The condition, once clear, is raised by illegal operands alone. -/
theorem alarmsAfter_raises_attention_iff (i : Instr) {s : State} (hclear : s.attentionPending = false) :
    (alarmsAfter i s).2 = true ↔ raisesIllegalParameter i s = true := by
  rw [alarmsAfter]
  split_ifs with hraises <;> simp [hraises, State.alarms, hclear]

/-- The bit, once set, is cleared by CLEAR_ATTENTION alone, which has no operand to be illegal. -/
theorem alarmsAfter_clears_bit_iff (i : Instr) {s : State} (hset : s.illegalParameterBit = true) :
    (alarmsAfter i s).1 = false ↔ i = .clearAttention := by
  constructor
  · rw [alarmsAfter]
    split_ifs with hraises hfault hattention
    · nofun
    · simp [hset]
    · exact fun _ => hattention
    · simp [State.alarms, hset]
  · rintro rfl
    rfl

/-- The common phases and the busy line change no operand and neither of the two. -/
theorem alarmsAfter_assertBusyIf_commonPhases (i : Instr) (b : Bool) (smp : Sample) (dt : Time) (s : State) :
    alarmsAfter i (assertBusyIf b (commonPhases smp dt s)) = alarmsAfter i s := by
  have hraises : raisesIllegalParameter i (assertBusyIf b (commonPhases smp dt s)) = raisesIllegalParameter i s := by
    cases i <;> simp [raisesIllegalParameter]
  have halarms : (assertBusyIf b (commonPhases smp dt s)).alarms = s.alarms := commonPhases_alarms smp dt s
  have hbit : (assertBusyIf b (commonPhases smp dt s)).illegalParameterBit = s.illegalParameterBit :=
    commonPhases_illegalParameterBit smp dt s
  rw [alarmsAfter, hraises, halarms, hbit, alarmsAfter]

/-- Every command does to the two what `alarmsAfter` says: the four that check an operand split on the check. -/
theorem exec_alarms {i : Instr} {s t : State} (h : exec i s = .next t) : t.alarms = alarmsAfter i s := by
  cases i with
  | seek =>
    simp only [exec, execSeek] at h
    split at h <;> rename_i hrange <;> cases h
    · rw [alarmsAfter_of_kept (by simp [raisesIllegalParameter, hrange]) (by decide)]
      simp
    · rw [alarmsAfter_of_raised (by simp [raisesIllegalParameter, hrange])]
      exact raiseIllegalParameter_alarms s
  | selectHead =>
    simp only [exec, execSelectHead] at h
    split at h <;> rename_i hrange <;> cases h
    · rw [alarmsAfter_of_kept (by simpa [raisesIllegalParameter] using hrange) (by decide)]
      rfl
    · rw [alarmsAfter_of_raised (by simp [raisesIllegalParameter, hrange])]
      exact raiseIllegalParameter_alarms s
  | loadAttribute =>
    rcases Nat.lt_or_ge s.attributeNumber.toNat attributeTableSize with hlt | hle
    · cases (exec_loadAttribute_of_lt hlt).symm.trans h
      rw [alarmsAfter_of_kept (by simpa [raisesIllegalParameter] using hlt) (by decide)]
      exact memWrite_alarms ⟨_, hlt⟩ s.paramOut s
    · cases (exec_loadAttribute_of_le hle).symm.trans h
      rw [alarmsAfter_of_raised (by simpa [raisesIllegalParameter] using hle)]
      exact raiseIllegalParameter_alarms (attrEnsureInit s)
  | reportAttribute =>
    simp only [exec, execReportAttribute, memRead, attrEnsureInit_idem] at h
    split at h <;> rename_i hrange <;> cases h
    · rw [alarmsAfter_of_kept (by simpa [raisesIllegalParameter] using hrange) (by decide)]
      exact attrEnsureInit_alarms s
    · rw [alarmsAfter_of_raised (by simpa [raisesIllegalParameter] using hrange)]
      exact raiseIllegalParameter_alarms (attrEnsureInit s)
  | rezero | setAttention | selectiveReset | reformatTrack | spinControl =>
    cases h
    rw [alarmsAfter_of_kept rfl (by decide)]
    simp
  | clearFault =>
    cases h
    simp [State.alarms, alarmsAfter, raisesIllegalParameter, State.illegalParameterBit, clearSense_generalStatus,
      summaryMask_illegalParameterBit]
  | clearAttention =>
    cases h
    simp [State.alarms, alarmsAfter, raisesIllegalParameter, State.illegalParameterBit, illegalParameterMask]
  | unrecognized code =>
    cases h
    exact raiseIllegalCommand_alarms s
  | _ =>
    cases h
    rfl

/-! ### The state rules and the cycle -/

/-- Re-initialization clears both (R261). -/
@[simp] theorem reinit_alarms (s : State) : (reinit s).alarms = (false, false) := by
  simp [State.alarms, State.illegalParameterBit, State.boot]

/-- Everything a state rule that goes on can do to the two: CONNECTED clears them with the enable line low,
EXECUTE_COMMAND leaves them to the command, AWAITING_TIME_DEPENDENT_COMMAND raises the condition at a completion, and
every other state leaves them. -/
theorem stateRule_alarms {smp : Sample} {s t : State} (h : stateRule smp s = .next t) :
    (s.protocolState = .connected ∧ t.alarms = if smp.enable then s.alarms else (false, false)) ∨
      (s.protocolState = .executeCommand ∧
        t.alarms = alarmsAfter (decode s.config.codes s.cmd)
          (assertBusyIf (commandIsTimeDependent s.config.codes s.cmd) s)) ∨
      (s.protocolState = .awaitingTimeDependentCommand ∧
        t.alarms = (s.illegalParameterBit,
          s.attentionPending || (!s.schedActive || decide (s.schedDuration.toNat ≤ s.schedElapsed.toNat)))) ∨
      (s.protocolState ∉ [.connected, .executeCommand, .awaitingTimeDependentCommand] ∧ t.alarms = s.alarms) := by
  rcases stateRule_cases h with ⟨hp, hr⟩ | ⟨hp, hr⟩ | ⟨hp, hr⟩ | ⟨hp, rfl⟩ | ⟨hp, ⟨-, -, rfl⟩ | ⟨-, rfl⟩⟩ |
    ⟨hp, u, hexec, rfl⟩ | ⟨hp, ⟨-, -, rfl⟩ | ⟨-, rfl⟩⟩ | ⟨hp, hr⟩
  · rcases ruleDisconnected_cases smp s with ⟨-, hd⟩ | ⟨-, hd⟩ <;> cases hd.symm.trans hr <;>
      exact .inr (.inr (.inr ⟨by simp [hp], rfl⟩))
  · rcases ruleConnected_cases smp s with ⟨henable, hc⟩ | ⟨henable, -, -, -, hc⟩ | ⟨henable, -, hc⟩ <;>
      cases hc.symm.trans hr <;> refine .inl ⟨hp, ?_⟩ <;> rw [henable]
    · exact reinit_alarms s
    · rfl
    · rfl
  · rcases ruleSelected_cases smp s with ⟨-, -, hs⟩ | ⟨-, -, hs⟩ | ⟨-, -, -, hs⟩ | ⟨-, -, -, -, -, -, hs⟩ |
      ⟨-, -, -, -, -, -, hs⟩ | ⟨-, -, -, -, hs⟩ | ⟨-, -, -, -, hs⟩ <;> cases hs.symm.trans hr <;>
      exact .inr (.inr (.inr ⟨by simp [hp], rfl⟩))
  · -- READ_COMMAND writes the code latch
    exact .inr (.inr (.inr ⟨by simp [hp], rfl⟩))
  · -- AWAITING_PARAM_OUT writes the parameter latch, or waits
    exact .inr (.inr (.inr ⟨by simp [hp], rfl⟩))
  · exact .inr (.inr (.inr ⟨by simp [hp], rfl⟩))
  · -- EXECUTE_COMMAND leaves the two to the command
    exact .inr (.inl ⟨hp, exec_alarms (t := u) hexec⟩)
  · -- AWAITING_PARAM_IN drives the response, or waits
    exact .inr (.inr (.inr ⟨by simp [hp], rfl⟩))
  · exact .inr (.inr (.inr ⟨by simp [hp], rfl⟩))
  · refine .inr (.inr (.inl ⟨hp, ?_⟩))
    rcases ruleAwaitingTimeDependentCommand_cases s with ⟨hactive, hdue, ha⟩ | ⟨hactive, hdue, ha⟩ | ⟨hactive, ha⟩ <;>
      cases ha.symm.trans hr
    · simp [State.alarms, hactive, hdue]
    · simp [State.alarms, State.illegalParameterBit, busyMask, hactive, hdue]
    · simp [State.alarms, State.illegalParameterBit, hactive]

/-- The same along a cycle that goes on, seen from the state before the common phases. -/
theorem cycle_alarms {smp : Sample} {dt : Time} {s t : State} (h : cycle smp dt s = .next t) :
    (s.protocolState = .connected ∧ t.alarms = if smp.enable then s.alarms else (false, false)) ∨
      (s.protocolState = .executeCommand ∧ t.alarms = alarmsAfter (decode s.config.codes s.cmd) s) ∨
      (s.protocolState = .awaitingTimeDependentCommand ∧
        t.alarms = (s.illegalParameterBit, s.attentionPending || pollCompletes dt s)) ∨
      (s.protocolState ≠ .connected ∧ s.protocolState ≠ .executeCommand ∧
        s.protocolState ≠ .awaitingTimeDependentCommand ∧ t.alarms = s.alarms) := by
  obtain ⟨u, hrule, rfl⟩ := cycle_next h
  have hsnapshot : ({ u with previousPins := smp } : State).alarms = u.alarms := rfl
  have hcases := stateRule_alarms hrule
  simp only [commonPhases_protocolState, commonPhases_alarms, commonPhases_config, commonPhases_cmd,
    alarmsAfter_assertBusyIf_commonPhases, commonPhases_schedActive, commonPhases_schedDuration,
    commonPhases_schedElapsed_toNat, commonPhases_attentionPending, commonPhases_illegalParameterBit,
    List.mem_cons, List.not_mem_nil, or_false, not_or, and_assoc] at hcases
  rw [hsnapshot]
  exact hcases

/-! ### The obligations -/

/-- Settles O29: in a cycle, what each protocol state does to the condition; at a sense event, the bits that rise under
the mask. -/
theorem attentionRisesExactlyAtItsCauses : Obligations.AttentionRisesExactlyAtItsCauses := by
  refine ⟨fun smp dt s t hcycle hclear => ?_, fun n mask s hclear => ?_⟩
  · change t.alarms.2 = true ↔ _
    rcases cycle_alarms hcycle with ⟨hp, ht⟩ | ⟨hp, ht⟩ | ⟨hp, ht⟩ | ⟨-, hexecute, hwait, ht⟩ <;> rw [ht]
    · cases smp.enable <;> simp [hp, State.alarms, hclear]
    · simp [hp, alarmsAfter_raises_attention_iff _ hclear]
    · simp [hp, hclear]
    · simp [hexecute, hwait, State.alarms, hclear]
  · rw [setSense_attentionPending, hclear, Bool.false_or, bne_iff_ne, ne_zero_iff_exists_bit]
    refine exists_congr fun b => and_congr_right fun hb => ?_
    simp [hb, and_assoc]

/-- Settles O48: the raise as it is defined, and in a cycle what each protocol state does to the bit. -/
theorem illegalParameterIsSticky : Obligations.IllegalParameterIsSticky := by
  refine ⟨fun _ => rfl, fun smp dt s t hcycle hset => ?_⟩
  change t.alarms.1 = false ↔ _
  rcases cycle_alarms hcycle with ⟨hp, ht⟩ | ⟨hp, ht⟩ | ⟨hp, ht⟩ | ⟨hconnected, hexecute, -, ht⟩ <;> rw [ht]
  · cases smp.enable <;> simp [hp, State.alarms, hset]
  · simp [hp, alarmsAfter_clears_bit_iff _ hset]
  · simp [hp, hset]
  · simp [hconnected, hexecute, State.alarms, hset]

end Sys2Proof.Machine

/-! PROOF. The two directions of the codec (30_encoding.md R84 to R86), and words of the reference map. -/

namespace Sys2Proof

/-- Every command of the opcode table is well-formed: the table holds no unrecognized code. -/
theorem Instr.wf_of_mem_rows {m : CodeMap} {c : Byte} {i : Instr} (h : (c, i) ∈ m.rows) : i.wf m = true :=
  have hcolumn : m.rows.map (fun r : Byte × Instr => r.2.wf m) = List.replicate 23 true := rfl
  List.eq_of_mem_replicate (hcolumn ▸ List.mem_map_of_mem (f := fun r : Byte × Instr => r.2.wf m) h)

/-- Every byte decodes to a well-formed instruction: a row's command, or a code that no row has. -/
theorem decode_wf (m : CodeMap) (c : Byte) : (decode m c).wf m = true := by
  rcases lookupCode_cases c m.rows with hrow | ⟨hnone, hfree⟩
  · exact Instr.wf_of_mem_rows hrow
  · have hcode : c ∉ m.codes := by
      rw [← m.rows_codes, List.mem_map]
      exact fun ⟨r, hr, hrc⟩ => hfree r hr hrc
    rw [decode, hnone, Instr.wf]
    simpa using hcode

/-- Settles O1: a well-formed instruction has a row of its own, or is a code that no row has. -/
theorem decodeOfEncodeIsTheInstruction : Obligations.DecodeOfEncodeIsTheInstruction :=
  fun _ _ hm hi => decode_encode hm hi

/-- Settles O2: the code of what the lookup answers, and its well-formedness. -/
theorem encodeOfDecodeIsTheByte : Obligations.EncodeOfDecodeIsTheByte :=
  fun m c => ⟨encode_decode m c, decode_wf m c⟩

/-- Settles O4: seven closed lookups in the reference map. -/
theorem referenceWordsDecode : Obligations.ReferenceWordsDecode := by
  unfold Obligations.ReferenceWordsDecode
  decide

end Sys2Proof

/-! PROOF. The sense bytes and their summaries under the executor (10_state.md R28 to R31, 60_exceptions.md R224 to
R226): a command writes the status bits below the summaries, and only CLEAR_FAULT writes a sense byte or a summary. -/

namespace Sys2Proof.Machine

/-! ### The bits of the status -/

/-- Setting bits below the summaries leaves the summaries and the reserved bits. -/
theorem setBits_ushiftRight {m : Byte} (hm : m >>> 3 = 0#8) (v : Byte) : setBits v m >>> 3 = v >>> 3 := by
  rw [setBits, BitVec.ushiftRight_or_distrib, hm, BitVec.or_zero]

/-- Clearing bits below the summaries leaves the summaries and the reserved bits. -/
theorem clearBits_ushiftRight {m : Byte} (hm : m >>> 3 = 0#8) (v : Byte) : clearBits v m >>> 3 = v >>> 3 := by
  refine BitVec.eq_of_getLsbD_eq fun b _ => ?_
  have hbit : m.getLsbD (3 + b) = false := by
    rw [← BitVec.getLsbD_ushiftRight, hm, BitVec.getLsbD_zero]
  rw [BitVec.getLsbD_ushiftRight, BitVec.getLsbD_ushiftRight, getLsbD_clearBits, hbit, Bool.not_false, Bool.and_true]

/-- The reserved bits are bits 7:5 (R28). -/
theorem reservedStatusMask_getLsbD (b : Nat) : reservedStatusMask.getLsbD b = decide (5 ≤ b ∧ b < 8) := by
  by_cases hb : b < 8
  · revert b; decide
  · rw [BitVec.getLsbD_of_ge _ _ (by omega)]
    simp [hb]

/-- The reserved bits are 0 exactly when every bit from 5 on is (R29). -/
theorem State.reservedClear_iff (s : State) : s.ReservedClear ↔ ∀ b, 5 ≤ b → s.generalStatus.getLsbD b = false := by
  have hbits (b : Nat) : (s.generalStatus &&& reservedStatusMask).getLsbD b =
      (s.generalStatus.getLsbD b && decide (5 ≤ b ∧ b < 8)) := by
    rw [BitVec.getLsbD_and, reservedStatusMask_getLsbD]
  constructor
  · intro h b hb
    rcases Nat.lt_or_ge b 8 with hlt | hge
    · simpa only [show s.generalStatus &&& reservedStatusMask = 0#8 from h, BitVec.getLsbD_zero, hb, hlt, and_self,
        decide_true, Bool.and_true, eq_comm] using hbits b
    · exact BitVec.getLsbD_of_ge _ _ hge
  · intro h
    refine BitVec.eq_of_getLsbD_eq (y := 0#8) fun b _ => ?_
    rw [hbits, BitVec.getLsbD_zero]
    by_cases hb : 5 ≤ b
    · rw [h b hb, Bool.false_and]
    · simp [hb]

/-- SENSE1_SUMMARY is bit 3 (R28), so writing it leaves every other bit. -/
theorem writeFlag_sense1SummaryMask_getLsbD (v : Byte) (f : Bool) (b : Nat) :
    (writeFlag v sense1SummaryMask f).getLsbD b = if b = 3 then f else v.getLsbD b := by
  have hmask : sense1SummaryMask = BitVec.twoPow 8 3 := rfl
  rw [getLsbD_writeFlag, hmask, BitVec.getLsbD_twoPow]
  simp [eq_comm]

/-- SENSE2_SUMMARY is bit 4 (R28), so writing it leaves every other bit. -/
theorem writeFlag_sense2SummaryMask_getLsbD (v : Byte) (f : Bool) (b : Nat) :
    (writeFlag v sense2SummaryMask f).getLsbD b = if b = 4 then f else v.getLsbD b := by
  have hmask : sense2SummaryMask = BitVec.twoPow 8 4 := rfl
  rw [getLsbD_writeFlag, hmask, BitVec.getLsbD_twoPow]
  simp [eq_comm]

/-- Settles O47: each primitive writes its byte, its summary bit and, for `SetSense`, the attention condition; the mask
of sense byte 1 is all ones (R5). -/
theorem sensePrimitivesKeepTheSummary : Obligations.SensePrimitivesKeepTheSummary := by
  intro mask s
  have hall (v : Byte) : v &&& attentionMask .one s.config = v := BitVec.and_allOnes
  refine ⟨?_, rfl, ?_, ?_, rfl, rfl, ?_, ?_⟩
  · conv_rhs => rw [← hall (mask &&& ~~~s.senseByte1)]
    rfl
  · exact writeFlag_sense1SummaryMask_getLsbD _ _
  · exact writeFlag_sense2SummaryMask_getLsbD _ _
  · exact writeFlag_sense1SummaryMask_getLsbD _ _
  · exact writeFlag_sense2SummaryMask_getLsbD _ _

/-! ### What follows the sense bytes -/

/-- The sense bytes with the part of the status that follows them: the summaries and the reserved bits. -/
def State.senseSide (s : State) : Byte × Byte × Byte := (s.senseByte1, s.senseByte2, s.generalStatus >>> 3)

theorem State.senseSide_eq_iff {s t : State} :
    t.senseSide = s.senseSide ↔ t.senseByte1 = s.senseByte1 ∧ t.senseByte2 = s.senseByte2 ∧
      ∀ b, 3 ≤ b → t.generalStatus.getLsbD b = s.generalStatus.getLsbD b := by
  simp only [State.senseSide, Prod.mk.injEq]
  refine and_congr_right fun _ => and_congr_right fun _ => ?_
  constructor
  · intro h b hb
    obtain ⟨k, rfl⟩ := Nat.exists_eq_add_of_le hb
    rw [← BitVec.getLsbD_ushiftRight, h, BitVec.getLsbD_ushiftRight]
  · intro h
    refine BitVec.eq_of_getLsbD_eq fun b _ => ?_
    rw [BitVec.getLsbD_ushiftRight, BitVec.getLsbD_ushiftRight, h _ (Nat.le_add_right 3 b)]

/-- From `s` to `t` the reserved status bits stay clear, the summaries stay true and the attribute table stays canonical
(R29, R31, R60). -/
structure State.KeepsForm (s t : State) : Prop where
  reservedClear : s.ReservedClear → t.ReservedClear
  summariesAgree : s.SummariesAgree → t.SummariesAgree
  attributes_wf : s.attributes.wf → t.attributes.wf

namespace State.KeepsForm

theorem trans {s t u : State} (hst : s.KeepsForm t) (htu : t.KeepsForm u) : s.KeepsForm u :=
  ⟨fun h => htu.reservedClear (hst.reservedClear h), fun h => htu.summariesAgree (hst.summariesAgree h),
    fun h => htu.attributes_wf (hst.attributes_wf h)⟩

/-- What leaves the sense bytes and the upper status bits keeps the status' form. -/
theorem of_senseSide {s t : State} (h : t.senseSide = s.senseSide) (hwf : s.attributes.wf → t.attributes.wf) :
    s.KeepsForm t := by
  obtain ⟨hone, htwo, hbits⟩ := State.senseSide_eq_iff.mp h
  refine ⟨fun hs => ?_, fun hs => ?_, hwf⟩
  · rw [State.reservedClear_iff] at hs ⊢
    exact fun b hb => (hbits b (by omega)).trans (hs b hb)
  · rw [State.SummariesAgree, State.sense1SummaryBit, State.sense2SummaryBit, hbits 3 (by decide), hbits 4 (by decide),
      hone, htwo]
    exact hs

/-- A new sense byte 1 with its summary written to agree keeps the form. -/
theorem of_sense1 {s t : State} (hother : t.senseByte2 = s.senseByte2) (htable : t.attributes = s.attributes)
    (hstatus : t.generalStatus = writeFlag s.generalStatus sense1SummaryMask (t.senseByte1 != 0)) :
    s.KeepsForm t := by
  have hbits (b : Nat) := (congrArg (·.getLsbD b) hstatus).trans (writeFlag_sense1SummaryMask_getLsbD _ _ b)
  refine ⟨fun hs => ?_, fun hs => ⟨hbits 3, ?_⟩, fun hs => htable ▸ hs⟩
  · rw [State.reservedClear_iff] at hs ⊢
    exact fun b hb => (hbits b).trans ((if_neg (by omega)).trans (hs b hb))
  · rw [hother]
    exact (hbits 4).trans hs.2

/-- A new sense byte 2 with its summary written to agree keeps the form. -/
theorem of_sense2 {s t : State} (hother : t.senseByte1 = s.senseByte1) (htable : t.attributes = s.attributes)
    (hstatus : t.generalStatus = writeFlag s.generalStatus sense2SummaryMask (t.senseByte2 != 0)) :
    s.KeepsForm t := by
  have hbits (b : Nat) := (congrArg (·.getLsbD b) hstatus).trans (writeFlag_sense2SummaryMask_getLsbD _ _ b)
  refine ⟨fun hs => ?_, fun hs => ⟨?_, hbits 4⟩, fun hs => htable ▸ hs⟩
  · rw [State.reservedClear_iff] at hs ⊢
    exact fun b hb => (hbits b).trans ((if_neg (by omega)).trans (hs b hb))
  · rw [hother]
    exact (hbits 3).trans hs.1

end State.KeepsForm

/-! ### The shared operations -/

theorem setSense_keepsForm (n : SenseByte) (m : Byte) (s : State) : s.KeepsForm (setSense n m s) := by
  cases n with
  | one => exact .of_sense1 rfl rfl rfl
  | two => exact .of_sense2 rfl rfl rfl

theorem clearSense_keepsForm (n : SenseByte) (m : Byte) (s : State) : s.KeepsForm (clearSense n m s) := by
  cases n with
  | one => exact .of_sense1 rfl rfl rfl
  | two => exact .of_sense2 rfl rfl rfl

@[simp] theorem commonPhases_senseSide (smp : Sample) (dt : Time) (s : State) :
    (commonPhases smp dt s).senseSide = s.senseSide := by
  simp [State.senseSide]

@[simp] theorem schedComplete_senseSide (s : State) : (schedComplete s).senseSide = s.senseSide := by
  simp [State.senseSide, clearBits_ushiftRight (m := busyMask) rfl]

@[simp] theorem schedStart_senseSide (d : Time) (a : SchedAction) (s : State) :
    (schedStart d a s).senseSide = s.senseSide := by
  simp [State.senseSide, setBits_ushiftRight (m := busyMask) rfl]

@[simp] theorem raiseIllegalParameter_senseSide (s : State) : (raiseIllegalParameter s).senseSide = s.senseSide := by
  simp [State.senseSide, setBits_ushiftRight (m := illegalParameterMask) rfl]

@[simp] theorem raiseIllegalCommand_senseSide (s : State) : (raiseIllegalCommand s).senseSide = s.senseSide := by
  simp [State.senseSide, setBits_ushiftRight (m := illegalCommandMask) rfl]

@[simp] theorem respondStatus_senseSide (s : State) : (respondStatus s).senseSide = s.senseSide := rfl

@[simp] theorem attrEnsureInit_senseSide (s : State) : (attrEnsureInit s).senseSide = s.senseSide := by
  simp [State.senseSide]

/-! ### The commands -/

/-- A command leaves the bus side. -/
theorem exec_busSide {i : Instr} {s t : State} (h : exec i s = .next t) : t.busSide = s.busSide := by
  obtain ⟨u, hu, hside⟩ := exec_completes i s
  cases hu.symm.trans h
  exact hside

/-- Inside the table the entry is answered (R149). -/
theorem exec_reportAttribute_of_lt {s : State} (h : s.attributeNumber.toNat < attributeTableSize) :
    exec .reportAttribute s =
      .next (respond (initializedEntry s ⟨s.attributeNumber.toNat, h⟩) (attrEnsureInit s)) := by
  rw [exec, execReportAttribute, dif_pos h, memRead, attrEnsureInit_idem, attrEnsureInit_read_initializedEntry]

/-- Beyond the table the error is raised, on a table that is initialized all the same (R149). -/
theorem exec_reportAttribute_of_le {s : State} (h : attributeTableSize ≤ s.attributeNumber.toNat) :
    exec .reportAttribute s = .next (respondStatus (raiseIllegalParameter (attrEnsureInit s))) := by
  rw [exec, execReportAttribute, dif_neg h.not_gt]

/-- A head below HEADS is stored (R159). -/
theorem exec_selectHead_of_lt {s : State} (h : s.paramOut.toNat < s.config.geometry.heads) :
    exec .selectHead s = .next (respondStatus { s with selectedHead := s.paramOut }) := by
  rw [exec, execSelectHead, if_pos (by simpa [headInRange] using h)]

/-- Any other head raises the error (R159). -/
theorem exec_selectHead_of_le {s : State} (h : s.config.geometry.heads ≤ s.paramOut.toNat) :
    exec .selectHead s = .next (respondStatus (raiseIllegalParameter s)) := by
  rw [exec, execSelectHead, if_neg (by simpa [headInRange] using h)]

/-- A target below CYLINDERS is captured (R152). -/
theorem exec_seek_of_lt {s : State}
    (h : s.loadCylinderHigh.toNat * 256 + s.loadCylinderLow.toNat < s.config.geometry.cylinders) :
    exec .seek s = .next (respondStatus
      (schedStart s.config.durations.seek (.commitSeek s.loadCylinderHigh s.loadCylinderLow) s)) := by
  rw [exec, execSeek, if_pos (by simpa [cylinderInRange, cylinderNumber_toNat] using h)]

/-- Any other target raises the error (R152). -/
theorem exec_seek_of_le {s : State}
    (h : s.config.geometry.cylinders ≤ s.loadCylinderHigh.toNat * 256 + s.loadCylinderLow.toNat) :
    exec .seek s = .next (respondStatus (raiseIllegalParameter s)) := by
  rw [exec, execSeek, if_neg (by simpa [cylinderInRange, cylinderNumber_toNat] using h)]

/-- Illegal operands raise the error, on a table that an attribute command has initialized, and only the default
response is left to do (R142, R141). -/
theorem exec_of_raised {i : Instr} {s : State} (h : raisesIllegalParameter i s = true) :
    ∃ u, (u = s ∨ u = attrEnsureInit s) ∧ exec i s = .next (respondStatus (raiseIllegalParameter u)) := by
  cases i with
  | selectHead =>
    exact ⟨s, .inl rfl, exec_selectHead_of_le (by simpa [raisesIllegalParameter, headInRange] using h)⟩
  | seek =>
    exact ⟨s, .inl rfl,
      exec_seek_of_le (by simpa [raisesIllegalParameter, cylinderInRange, cylinderNumber_toNat] using h)⟩
  | loadAttribute => exact ⟨_, .inr rfl, exec_loadAttribute_of_le (of_decide_eq_true h)⟩
  | reportAttribute => exact ⟨_, .inr rfl, exec_reportAttribute_of_le (of_decide_eq_true h)⟩
  | _ => exact absurd h Bool.false_ne_true

/-- What CLEAR_FAULT does before it clears the attention condition: each sense bit whose fault is gone goes (R150). -/
def clearAbsentFaults (s : State) : State :=
  clearSense .two (~~~faultPresent .two s.config) (clearSense .one (~~~faultPresent .one s.config) s)

theorem exec_clearFault (s : State) :
    exec .clearFault s = .next (respondStatus { clearAbsentFaults s with attentionPending := false }) := rfl

/-- The current cylinder, as its two bytes (R38). -/
def State.position (s : State) : Byte × Byte := (s.currentCylinderHigh, s.currentCylinderLow)

/-- Everything a command can leave, as far as the status, the sense bytes, the position and the attribute table go. -/
inductive ExecEffect (i : Instr) (s : State) : State → Prop
  /-- Illegal operands (R142), after the initialization that an attribute command calls first. -/
  | raised {u : State} (hraises : raisesIllegalParameter i s = true) (hu : u = s ∨ u = attrEnsureInit s) :
    ExecEffect i s (respondStatus (raiseIllegalParameter u))
  /-- A code outside the map (R166). -/
  | unrecognized {c : Byte} (hi : i = .unrecognized c) : ExecEffect i s (respondStatus (raiseIllegalCommand s))
  /-- A time-dependent command that registers (R201). -/
  | started {d : Time} {a : SchedAction} (htd : isTimeDependentCommand i = true) :
    ExecEffect i s (respondStatus (schedStart d a s))
  /-- CLEAR_FAULT (R150). -/
  | clearedFault (hi : i = .clearFault) :
    ExecEffect i s (respondStatus { clearAbsentFaults s with attentionPending := false })
  /-- CLEAR_ATTENTION (R151). -/
  | clearedAttention (hi : i = .clearAttention) :
    ExecEffect i s (respondStatus { s with
      generalStatus := clearBits (clearBits s.generalStatus illegalCommandMask) illegalParameterMask
      attentionPending := false })
  /-- Any other command writes neither the status nor a sense byte nor the position. -/
  | registers {t : State} (hi : ∀ c, i ≠ .unrecognized c) (hstatus : t.generalStatus = s.generalStatus)
    (hone : t.senseByte1 = s.senseByte1) (htwo : t.senseByte2 = s.senseByte2) (hposition : t.position = s.position)
    (hwf : s.attributes.wf → t.attributes.wf) : ExecEffect i s t

/-- Every command leaves one of the six. -/
theorem exec_effect {i : Instr} {s t : State} (h : exec i s = .next t) : ExecEffect i s t := by
  cases hraises : raisesIllegalParameter i s with
  | true =>
    obtain ⟨u, hu, hexec⟩ := exec_of_raised hraises
    cases hexec.symm.trans h
    exact .raised hraises hu
  | false =>
    cases i with
    | seek =>
      cases (exec_seek_of_lt
        (by simpa [raisesIllegalParameter, cylinderInRange, cylinderNumber_toNat] using hraises)).symm.trans h
      exact .started rfl
    | selectHead =>
      cases (exec_selectHead_of_lt (by simpa [raisesIllegalParameter, headInRange] using hraises)).symm.trans h
      exact .registers nofun rfl rfl rfl rfl id
    | loadAttribute =>
      have hlt : s.attributeNumber.toNat < attributeTableSize := by simpa [raisesIllegalParameter] using hraises
      cases (exec_loadAttribute_of_lt hlt).symm.trans h
      exact .registers nofun (by simp) (by simp) (by simp) (by simp [State.position]) (memWrite_wf ⟨_, hlt⟩ s.paramOut)
    | reportAttribute =>
      cases (exec_reportAttribute_of_lt (by simpa [raisesIllegalParameter] using hraises)).symm.trans h
      exact .registers nofun (by simp) (by simp) (by simp) (by simp [State.position]) attrEnsureInit_wf
    | rezero | setAttention | selectiveReset | reformatTrack | spinControl =>
      cases h
      exact .started rfl
    | unrecognized c =>
      cases h
      exact .unrecognized rfl
    | clearAttention =>
      cases h
      exact .clearedAttention rfl
    | clearFault =>
      cases (exec_clearFault s).symm.trans h
      exact .clearedFault rfl
    | _ =>
      cases h
      exact .registers nofun rfl rfl rfl rfl id

theorem clearAbsentFaults_keepsForm (s : State) : s.KeepsForm (clearAbsentFaults s) :=
  (clearSense_keepsForm .one _ s).trans (clearSense_keepsForm .two _ _)

/-- Every command but CLEAR_FAULT leaves the sense bytes and what follows them. -/
theorem exec_senseSide {i : Instr} {s t : State} (h : exec i s = .next t) (hi : i ≠ .clearFault) :
    t.senseSide = s.senseSide := by
  cases exec_effect h with
  | raised _ hu => rcases hu with rfl | rfl <;> simp
  | unrecognized _ => simp
  | started _ => simp
  | clearedFault hclear => exact absurd hclear hi
  | clearedAttention _ =>
    simp [State.senseSide, clearBits_ushiftRight (m := illegalCommandMask) rfl,
      clearBits_ushiftRight (m := illegalParameterMask) rfl]
  | registers _ hstatus hone htwo _ _ => rw [State.senseSide, hstatus, hone, htwo, State.senseSide]

/-- Every command keeps the attribute table canonical. -/
theorem exec_keeps_attributes_wf {i : Instr} {s t : State} (h : exec i s = .next t) (hwf : s.attributes.wf) :
    t.attributes.wf := by
  cases exec_effect h with
  | raised _ hu =>
    rcases hu with rfl | rfl
    · exact hwf
    · exact attrEnsureInit_wf hwf
  | clearedFault _ => exact (clearAbsentFaults_keepsForm s).attributes_wf hwf
  | registers _ _ _ _ _ hkeeps => exact hkeeps hwf
  | _ => exact hwf

/-- Every command keeps the form: CLEAR_FAULT writes both summaries anew, every other command leaves them. -/
theorem exec_keepsForm {i : Instr} {s t : State} (h : exec i s = .next t) : s.KeepsForm t := by
  by_cases hi : i = .clearFault
  · subst hi
    cases (exec_clearFault s).symm.trans h
    exact (clearAbsentFaults_keepsForm s).trans (.of_senseSide rfl id)
  · exact .of_senseSide (exec_senseSide h hi) (exec_keeps_attributes_wf h)

end Sys2Proof.Machine

/-! PROOF. Everything a state rule can leave (40_bus_state_machine.md R106 to R121), in five shapes: a move of the
handshake, re-initialization, a command, a completed registration, and a poll with nothing registered. -/

namespace Sys2Proof.Machine

/-- From `s` to `t` a state rule moved the handshake: it wrote the protocol state, the two latches it takes from the
host, the acknowledge and the bus register at most. -/
structure MovesHandshake (smp : Sample) (s t : State) : Prop where
  frame : t = { s with
    protocolState := t.protocolState
    cmd := t.cmd
    paramOut := t.paramOut
    ackOut := t.ackOut
    busOut := t.busOut }
  cmd_eq : s.protocolState ≠ .readCommand → t.cmd = s.cmd
  paramOut_eq : s.protocolState ≠ .awaitingParamOut → t.paramOut = s.paramOut
  ack_kept : s.ackOut = true → t.ackOut = true
  ack_quiet : smp.sel = false → smp.paramReq = false →
    t.ackOut = (s.ackOut || decide (s.protocolState = .readCommand))
  busyLine : s.BusyLineAgrees → t.BusyLineAgrees

/-- Everything a state rule that goes on from `s` can leave. -/
inductive StateRuleEffect (smp : Sample) (s : State) : State → Prop
  /-- No command ran and nothing completed. -/
  | handshake {t : State} (hmove : MovesHandshake smp s t) : StateRuleEffect smp s t
  /-- CONNECTED with the enable line low (R107). -/
  | reinitialized (hp : s.protocolState = .connected) (henable : smp.enable = false) :
    StateRuleEffect smp s { reinit s with protocolState := .disconnected }
  /-- EXECUTE_COMMAND (R118). -/
  | executed {u : State} (hp : s.protocolState = .executeCommand)
    (hexec : exec (decode s.config.codes s.cmd)
      (assertBusyIf (commandIsTimeDependent s.config.codes s.cmd) s) = .next u) :
    StateRuleEffect smp s { u with protocolState := afterExecute s.config.codes s.cmd }
  /-- AWAITING_TIME_DEPENDENT_COMMAND at a completing poll (R119, R203). -/
  | completed (hp : s.protocolState = .awaitingTimeDependentCommand) (hactive : s.schedActive = true)
    (hdue : s.schedDuration.toNat ≤ s.schedElapsed.toNat) :
    StateRuleEffect smp s
      { schedComplete s with busyOut := false, attentionPending := true, protocolState := .selected }
  /-- AWAITING_TIME_DEPENDENT_COMMAND with nothing registered (R119; D38). -/
  | polledEmpty (hp : s.protocolState = .awaitingTimeDependentCommand) (hactive : s.schedActive = false) :
    StateRuleEffect smp s { s with busyOut := false, attentionPending := true, protocolState := .selected }

/-- A rule that leaves the state moves nothing; only READ_COMMAND always writes. -/
theorem MovesHandshake.refl {smp : Sample} {s : State} (hp : s.protocolState ≠ .readCommand) :
    MovesHandshake smp s s :=
  ⟨rfl, fun _ => rfl, fun _ => rfl, id, fun _ _ => by simp [hp], id⟩

/-- A move of the protocol state between two states in which the busy line is down. -/
theorem MovesHandshake.of_protocolState {smp : Sample} {s : State} {p : ProtocolState}
    (hs : s.protocolState ∉ [.readCommand, .awaitingParamIn, .awaitingTimeDependentCommand])
    (hp : p ∉ [.awaitingParamIn, .awaitingTimeDependentCommand]) :
    MovesHandshake smp s { s with protocolState := p } := by
  simp only [List.mem_cons, List.not_mem_nil, or_false, not_or] at hs hp
  exact ⟨rfl, fun _ => rfl, fun _ => rfl, id, fun _ _ => by simp [hs], fun h => by
    simpa [State.BusyLineAgrees, hs, hp] using h⟩

theorem ruleDisconnected_effect {smp : Sample} {s t : State} (hp : s.protocolState = .disconnected)
    (h : ruleDisconnected smp s = .next t) : StateRuleEffect smp s t := by
  rcases ruleDisconnected_cases smp s with ⟨-, hr⟩ | ⟨-, hr⟩ <;> cases hr.symm.trans h
  · exact .handshake (.of_protocolState (by simp [hp]) (by simp))
  · exact .handshake (.refl (by simp [hp]))

theorem ruleConnected_effect {smp : Sample} {s t : State} (hp : s.protocolState = .connected)
    (h : ruleConnected smp s = .next t) : StateRuleEffect smp s t := by
  rcases ruleConnected_cases smp s with ⟨henable, hr⟩ | ⟨-, hsel, -, -, hr⟩ | ⟨-, -, hr⟩ <;> cases hr.symm.trans h
  · exact .reinitialized hp henable
  · exact .handshake ⟨rfl, fun _ => rfl, fun _ => rfl, fun _ => rfl, fun hlow => by simp [hsel] at hlow,
      fun hs => by simpa [State.BusyLineAgrees, hp] using hs⟩
  · exact .handshake (.refl (by simp [hp]))

theorem ruleSelected_effect {smp : Sample} {s t : State} (hp : s.protocolState = .selected)
    (h : ruleSelected smp s = .next t) : StateRuleEffect smp s t := by
  refine .handshake ?_
  rcases ruleSelected_cases smp s with ⟨-, -, hr⟩ | ⟨-, -, hr⟩ | ⟨-, -, -, hr⟩ | ⟨-, -, -, hsel, -, -, hr⟩ |
    ⟨-, -, -, -, -, -, hr⟩ | ⟨-, -, -, -, hr⟩ | ⟨-, -, -, -, hr⟩ <;> cases hr.symm.trans h
  · exact .of_protocolState (by simp [hp]) (by simp)
  · exact .of_protocolState (by simp [hp]) (by simp)
  · exact .of_protocolState (by simp [hp]) (by simp)
  · exact ⟨rfl, fun _ => rfl, fun _ => rfl, fun _ => rfl, fun hlow => by simp [hsel] at hlow, id⟩
  · exact .of_protocolState (by simp [hp]) (by simp)
  · exact ⟨rfl, fun _ => rfl, fun _ => rfl, id, fun _ _ => by simp [hp], id⟩
  · exact .refl (by simp [hp])

/-- Every state rule that goes on leaves one of the five. -/
theorem stateRule_effect {smp : Sample} {s t : State} (h : stateRule smp s = .next t) : StateRuleEffect smp s t := by
  rcases stateRule_cases h with ⟨hp, hr⟩ | ⟨hp, hr⟩ | ⟨hp, hr⟩ | ⟨hp, rfl⟩ | ⟨hp, ⟨-, hreq, rfl⟩ | ⟨-, rfl⟩⟩ |
    ⟨hp, u, hexec, rfl⟩ | ⟨hp, ⟨-, hreq, rfl⟩ | ⟨-, rfl⟩⟩ | ⟨hp, hr⟩
  · exact ruleDisconnected_effect hp hr
  · exact ruleConnected_effect hp hr
  · exact ruleSelected_effect hp hr
  · -- READ_COMMAND
    refine .handshake ⟨rfl, fun hne => absurd hp hne, fun _ => rfl, fun _ => rfl, fun _ _ => by simp [hp], fun hs => ?_⟩
    cases hclass : commandIsParamOut smp.bus <;> simpa [State.BusyLineAgrees, hp, hclass] using hs
  · -- AWAITING_PARAM_OUT on its request
    exact .handshake ⟨rfl, fun _ => rfl, fun hne => absurd hp hne, fun _ => rfl, fun _ hlow => by simp [hreq] at hlow,
      fun hs => by simpa [State.BusyLineAgrees, hp] using hs⟩
  · exact .handshake (.refl (by simp [hp]))
  · exact .executed hp hexec
  · -- AWAITING_PARAM_IN on its request
    refine .handshake ⟨rfl, fun _ => rfl, fun _ => rfl, fun _ => rfl, fun _ hlow => by simp [hreq] at hlow,
      fun hs => ?_⟩
    cases htd : commandIsTimeDependent s.config.codes s.cmd <;> simpa [State.BusyLineAgrees, hp, htd] using hs
  · exact .handshake (.refl (by simp [hp]))
  · -- AWAITING_TIME_DEPENDENT_COMMAND
    rcases ruleAwaitingTimeDependentCommand_cases s with ⟨-, -, ha⟩ | ⟨hactive, hdue, ha⟩ | ⟨hactive, ha⟩ <;>
      cases ha.symm.trans hr
    · exact .handshake (.refl (by simp [hp]))
    · exact .completed hp hactive hdue
    · exact .polledEmpty hp hactive

end Sys2Proof.Machine

/-! PROOF. The invariant of runs along every step (10_state.md R21, R29 to R31, R56, R57, R60; logs 5 and 7). The id,
the parameters and BUSY are kept by `step_keepsIdAndBusy`; here the status' form, the busy line and the fault set. -/

namespace Sys2Proof.Machine

/-! ### The form of the status and of the attribute table -/

theorem MovesHandshake.keepsForm {smp : Sample} {s t : State} (h : MovesHandshake smp s t) : s.KeepsForm t := by
  rw [h.frame]
  exact .of_senseSide rfl id

/-- Boot leaves the status 0 (R260). -/
theorem boot_reservedClear (c : Config) : (State.boot c).ReservedClear := by
  simp [State.ReservedClear, State.boot]

/-- Boot leaves the sense bytes 0, too, so the summaries agree (R260). -/
theorem boot_summariesAgree (c : Config) : (State.boot c).SummariesAgree := by
  simp [State.SummariesAgree, State.sense1SummaryBit, State.sense2SummaryBit, State.boot]

/-- Boot leaves nothing in the table (R260). -/
theorem boot_attributes_wf (c : Config) : (State.boot c).attributes.wf := by
  simp [Memory.wf, State.boot]

/-- Re-initialization leaves of the form what boot leaves (R261). -/
theorem reinit_keepsForm (s : State) : s.KeepsForm (reinit s) :=
  ⟨fun _ => boot_reservedClear s.config, fun _ => boot_summariesAgree s.config, fun _ => boot_attributes_wf s.config⟩

theorem stateRule_keepsForm {smp : Sample} {s t : State} (h : stateRule smp s = .next t) : s.KeepsForm t := by
  cases stateRule_effect h with
  | handshake hmove => exact hmove.keepsForm
  | reinitialized _ _ => exact (reinit_keepsForm s).trans (.of_senseSide rfl id)
  | executed _ hexec =>
    have hline (b : Bool) : s.KeepsForm (assertBusyIf b s) := .of_senseSide rfl id
    exact ((hline _).trans (exec_keepsForm hexec)).trans (.of_senseSide rfl id)
  | completed _ _ _ =>
    have hcomplete : s.KeepsForm (schedComplete s) := .of_senseSide (schedComplete_senseSide s) (by simp)
    exact hcomplete.trans (.of_senseSide rfl id)
  | polledEmpty _ _ => exact .of_senseSide rfl id

theorem cycle_keepsForm {smp : Sample} {dt : Time} {s t : State} (h : cycle smp dt s = .next t) : s.KeepsForm t := by
  obtain ⟨u, hrule, rfl⟩ := cycle_next h
  have hcommon : s.KeepsForm (commonPhases smp dt s) := .of_senseSide (commonPhases_senseSide smp dt s) (by simp)
  exact (hcommon.trans (stateRule_keepsForm hrule)).trans (.of_senseSide rfl id)

theorem takeInput_keepsForm (s : State) : s.KeepsForm (takeInput s).2 := by
  obtain ⟨inputs, draws, htake⟩ := takeInput_state s
  rw [htake]
  exact .of_senseSide rfl id

/-- Every step, a cycle or a fault-collaborator event, keeps the form. -/
theorem step_keepsForm {s t : State} (h : step s = .next t) : s.KeepsForm t := by
  obtain ⟨-, ⟨smp, dt, -, hcycle⟩ | ⟨n, m, -, rfl⟩⟩ := step_next h
  · exact (takeInput_keepsForm s).trans (cycle_keepsForm hcycle)
  · exact (takeInput_keepsForm s).trans (setSense_keepsForm n m _)

/-! ### The busy line, the registration and the fault set -/

/-- The three clauses of the invariant about the handshake and the bookkeeping (R56, R57; log 7). -/
structure State.LineForm (s : State) : Prop where
  busyLine : s.BusyLineAgrees
  active : s.ActiveOnlyWhileBusy
  faults : s.modelFaults.Nodup

theorem commonPhases_lineForm {smp : Sample} {dt : Time} {s : State} (h : s.LineForm) :
    (commonPhases smp dt s).LineForm := by
  refine ⟨?_, ?_, ?_⟩
  · simpa [State.BusyLineAgrees] using h.busyLine
  · simpa [State.ActiveOnlyWhileBusy] using h.active
  · rw [commonPhases_modelFaults]
    split
    · exact recordFault_nodup _ s h.faults
    · exact h.faults

/-- A command that starts a registration has asserted the busy line: its code is of the six (R83, R118). -/
theorem exec_activeOnlyWhileBusy {s u : State} (hm : s.config.codes.admissible = true) (hs : s.ActiveOnlyWhileBusy)
    (h : exec (decode s.config.codes s.cmd) (assertBusyIf (commandIsTimeDependent s.config.codes s.cmd) s) = .next u)
    (hline : u.busyOut = (s.busyOut || commandIsTimeDependent s.config.codes s.cmd)) : u.ActiveOnlyWhileBusy := by
  rw [State.ActiveOnlyWhileBusy, hline]
  rcases exec_registration h with hkept | ⟨htd, -⟩
  · have hactive : u.schedActive = s.schedActive := congrArg Prod.fst hkept
    rw [hactive]
    exact fun h => by rw [hs h, Bool.true_or]
  · have hcode := commandIsTimeDependent_encode hm (decode_wf s.config.codes s.cmd)
    rw [encode_decode, htd] at hcode
    exact fun _ => by rw [hcode, Bool.or_true]

/-- EXECUTE_COMMAND keeps the three: the busy line was down before it, and the class says both the line and the next
state (R118). -/
theorem executed_lineForm {s u : State} (hm : s.config.codes.admissible = true) (hs : s.LineForm)
    (hp : s.protocolState = .executeCommand)
    (h : exec (decode s.config.codes s.cmd) (assertBusyIf (commandIsTimeDependent s.config.codes s.cmd) s) = .next u) :
    ({ u with protocolState := afterExecute s.config.codes s.cmd } : State).LineForm := by
  have hside := exec_busSide h
  have hconfig : u.config = s.config := congrArg BusSide.config hside
  have hcmd : u.cmd = s.cmd := congrArg BusSide.cmd hside
  have hline : u.busyOut = (s.busyOut || commandIsTimeDependent s.config.codes s.cmd) :=
    congrArg BusSide.busyOut hside
  have hfaults : u.modelFaults = s.modelFaults := congrArg BusSide.modelFaults hside
  have hdown : s.busyOut = false := by simpa [State.BusyLineAgrees, hp] using hs.busyLine
  have hactive : u.ActiveOnlyWhileBusy := exec_activeOnlyWhileBusy hm hs.active h hline
  refine ⟨?_, hactive, hfaults ▸ hs.faults⟩
  simp only [State.BusyLineAgrees, hconfig, hcmd, hline, hdown, afterExecute]
  cases commandIsParamOut s.cmd <;> cases commandIsTimeDependent s.config.codes s.cmd <;> simp

theorem stateRule_lineForm {smp : Sample} {s t : State} (hm : s.config.codes.admissible = true) (hs : s.LineForm)
    (h : stateRule smp s = .next t) : t.LineForm := by
  cases stateRule_effect h with
  | handshake hmove =>
    refine ⟨hmove.busyLine hs.busyLine, ?_, ?_⟩ <;> rw [hmove.frame]
    · exact hs.active
    · exact hs.faults
  | reinitialized _ _ => exact ⟨by simp [State.BusyLineAgrees, State.boot], nofun, hs.faults⟩
  | executed hp hexec => exact executed_lineForm hm hs hp hexec
  | completed _ _ _ => exact ⟨by simp [State.BusyLineAgrees], nofun, by simpa using hs.faults⟩
  | polledEmpty _ hactive =>
    exact ⟨by simp [State.BusyLineAgrees], by simp [State.ActiveOnlyWhileBusy, hactive], hs.faults⟩

theorem cycle_lineForm {smp : Sample} {dt : Time} {s t : State} (hm : s.config.codes.admissible = true)
    (hs : s.LineForm) (h : cycle smp dt s = .next t) : t.LineForm := by
  obtain ⟨u, hrule, rfl⟩ := cycle_next h
  have hu := stateRule_lineForm (by rwa [commonPhases_config]) (commonPhases_lineForm hs) hrule
  exact ⟨hu.busyLine, hu.active, hu.faults⟩

/-- A fault-collaborator event writes none of what the three read. -/
theorem setSense_lineForm {s : State} (n : SenseByte) (m : Byte) (hs : s.LineForm) : (setSense n m s).LineForm :=
  ⟨by simpa [State.BusyLineAgrees] using hs.busyLine, by simpa [State.ActiveOnlyWhileBusy] using hs.active,
    by simpa using hs.faults⟩

/-- Every step keeps the three, under the admissible map that a step demands. -/
theorem step_lineForm {s t : State} (hs : s.LineForm) (h : step s = .next t) : t.LineForm := by
  obtain ⟨hadmissible, hinput⟩ := step_next h
  rw [Config.admissible, Bool.and_eq_true] at hadmissible
  obtain ⟨inputs, draws, htake⟩ := takeInput_state s
  have htaken : (takeInput s).2.LineForm := by
    rw [htake]
    exact ⟨hs.busyLine, hs.active, hs.faults⟩
  rcases hinput with ⟨smp, dt, -, hcycle⟩ | ⟨n, m, -, rfl⟩
  · exact cycle_lineForm (by rw [htake]; exact hadmissible.2) htaken hcycle
  · exact setSense_lineForm n m htaken

/-! ### The obligations -/

/-- Settles O55: clause by clause what every step keeps. -/
theorem invariantKeptByEveryStep : Obligations.InvariantKeptByEveryStep := by
  rintro s t ⟨hid, hreserved, hbusy, hsummaries, hbusyLine, hactive, hwf, hfaults⟩ hstep
  have hkept := step_keepsIdAndBusy hstep
  have hform := step_keepsForm hstep
  have hline := step_lineForm ⟨hbusyLine, hactive, hfaults⟩ hstep
  refine ⟨?_, hform.reservedClear hreserved, hkept.busyAgrees hbusy, hform.summariesAgree hsummaries, hline.busyLine,
    hline.active, hform.attributes_wf hwf, hline.faults⟩
  rw [State.IdConfigured, hkept.id_eq, hkept.config_eq]
  exact hid

/-- Settles O57: at reset by the boot state, along a step by what every step keeps. -/
theorem summaryBitsFollowTheSenseBytes : Obligations.SummaryBitsFollowTheSenseBytes :=
  ⟨boot_summariesAgree Config.reference, fun _ _ hs hstep => (step_keepsForm hstep).summariesAgree hs⟩

/-- The invariant holds at boot of an admissible configuration, whose id fits its three bits. -/
theorem boot_inv {c : Config} (hc : c.admissible = true) : (State.boot c).Inv :=
  ⟨boot_id_toNat hc, boot_reservedClear c, boot_busyAgrees c, boot_summariesAgree c,
    by simp [State.BusyLineAgrees, State.boot], nofun, boot_attributes_wf c, List.nodup_nil⟩

/-- Settles O54: the reference parameters are admissible. -/
theorem invariantHoldsAtReset : Obligations.InvariantHoldsAtReset :=
  ⟨fun _ hc => boot_inv hc, boot_inv (by decide)⟩

end Sys2Proof.Machine

/-! PROOF. The commands one by one (41_command_executor.md sections 1 to 8), and the errors a command raises. -/

namespace Sys2Proof.Machine

/-! ### The reports and the loads -/

/-- Settles O33: each report is one write of `param_in`; the reserved bits of the status are clear by R29. -/
theorem statusAndCylinderReports : Obligations.StatusAndCylinderReports := by
  refine ⟨fun _ => ⟨rfl, rfl, rfl⟩, fun s t hs h => ?_, encodedAs_encode rfl Laws.ClassBit.reportGeneralStatus,
    encodedAs_encode rfl Laws.ClassBit.reportCylAddrHigh, encodedAs_encode rfl Laws.ClassBit.reportCylAddrLow⟩
  cases h
  exact (State.reservedClear_iff s).mp hs

/-- Settles O34: below 72 the command is a table read and otherwise a raised error, each after the initialization. -/
theorem reportAttributeCompletes : Obligations.ReportAttributeCompletes := by
  intro s
  have hkept (hinit : s.attributesInitialized = true) : (attrEnsureInit s).attributes = s.attributes := by
    rw [attrEnsureInit_of_initialized hinit]
  rcases Nat.lt_or_ge s.attributeNumber.toNat attributeTableSize with hlt | hle
  · exact ⟨_, exec_reportAttribute_of_lt hlt, attrEnsureInit_read_initializedEntry s, hkept,
      fun h => congrArg (respond (initializedEntry s ⟨_, h⟩)) (attrEnsureInit_frame s),
      fun hle => absurd hlt hle.not_gt⟩
  · exact ⟨_, exec_reportAttribute_of_le hle, attrEnsureInit_read_initializedEntry s, hkept,
      fun hlt => absurd hlt hle.not_gt,
      fun _ => congrArg (fun u => respondStatus (raiseIllegalParameter u)) (attrEnsureInit_frame s)⟩

/-- Settles O38: each command is one write of its register, then the default response (R141). -/
theorem indexLoadAndModeToggles : Obligations.IndexLoadAndModeToggles :=
  ⟨fun _ => ⟨rfl, rfl, rfl⟩, encodedAs_encode rfl Laws.ClassBit.loadAttributeNumber,
    encodedAs_encode rfl Laws.ClassBit.attentionControl, encodedAs_encode rfl Laws.ClassBit.writeControl⟩

/-- Settles O39: the two sides of the range check. -/
theorem selectHeadChecksTheHead : Obligations.SelectHeadChecksTheHead :=
  ⟨encodedAs_encode rfl Laws.ClassBit.selectHead, fun _ => ⟨exec_selectHead_of_lt, exec_selectHead_of_le⟩⟩

/-- Settles O49: the gate is a conjunction, and ATTENTION_CONTROL writes its second part only (R160). -/
theorem attentionLineIsGated : Obligations.AttentionLineIsGated := by
  refine fun s => ⟨by rw [attentionLine, Bool.and_eq_true], fun t h => ?_⟩
  cases h
  exact ⟨rfl, rfl⟩

/-! ### The clears -/

/-- The status after CLEAR_FAULT: the two summary bits written anew, every other bit as it was (R150, R226). -/
theorem clearAbsentFaults_generalStatus_getLsbD (s : State) (b : Nat) :
    (clearAbsentFaults s).generalStatus.getLsbD b =
      if b = 4 then (clearAbsentFaults s).senseByte2 != 0
      else if b = 3 then (clearAbsentFaults s).senseByte1 != 0
      else s.generalStatus.getLsbD b := by
  rw [← writeFlag_sense1SummaryMask_getLsbD]
  exact writeFlag_sense2SummaryMask_getLsbD _ _ b

/-- Clearing what is not in `p` keeps what is. -/
theorem clearBits_not_getLsbD (v p : Byte) (b : Nat) :
    (clearBits v (~~~p)).getLsbD b = (v.getLsbD b && p.getLsbD b) := by
  rw [clearBits, BitVec.not_not, BitVec.getLsbD_and]

/-- CLEAR_FAULT's clears write the two sense bytes and the status. -/
theorem clearAbsentFaults_frame (s : State) :
    clearAbsentFaults s = { s with
      senseByte1 := (clearAbsentFaults s).senseByte1
      senseByte2 := (clearAbsentFaults s).senseByte2
      generalStatus := (clearAbsentFaults s).generalStatus } := rfl

/-- Settles O40: each sense byte keeps the bits of FAULT_PRESENT, and the two summaries are written after them. -/
theorem clearFaultKeepsPresentFaults : Obligations.ClearFaultKeepsPresentFaults := by
  refine ⟨encodedAs_encode rfl Laws.ClassBit.clearFault, fun s =>
    ⟨respondStatus { clearAbsentFaults s with attentionPending := false }, exec_clearFault s,
      clearBits_not_getLsbD s.senseByte1 s.config.faultPresent1,
      clearBits_not_getLsbD s.senseByte2 s.config.faultPresent2,
      ⟨clearAbsentFaults_generalStatus_getLsbD s 3, clearAbsentFaults_generalStatus_getLsbD s 4⟩, fun b h3 h4 => ?_,
      congrArg (fun u : State => respondStatus { u with attentionPending := false }) (clearAbsentFaults_frame s)⟩⟩
  exact (clearAbsentFaults_generalStatus_getLsbD s b).trans ((if_neg h4).trans (if_neg h3))

/-- CLEAR_ATTENTION clears bits 1 and 2 of the status (R151). -/
theorem exec_clearAttention (s : State) :
    exec .clearAttention s = .next { s with
      generalStatus := s.generalStatus &&& 0xF9
      attentionPending := false
      paramIn := s.generalStatus &&& 0xF9 } := by
  have hclear : clearBits (clearBits s.generalStatus illegalCommandMask) illegalParameterMask =
      s.generalStatus &&& 0xF9 := BitVec.and_assoc s.generalStatus _ _
  rw [← hclear]
  rfl

/-- Settles O41. -/
theorem clearAttentionClearsTheIllegalBits : Obligations.ClearAttentionClearsTheIllegalBits :=
  ⟨encodedAs_encode rfl Laws.ClassBit.clearAttention, exec_clearAttention⟩

/-! ### The time-dependent commands and the fallback -/

/-- Settles O42: the two sides of the range check; below it `SchedStart` captures the target. -/
theorem seekCapturesOrRejectsItsTarget : Obligations.SeekCapturesOrRejectsItsTarget :=
  ⟨encodedAs_encode rfl Laws.ClassBit.seek, fun _ => ⟨exec_seek_of_lt, exec_seek_of_le⟩⟩

/-- Settles O43: each of the five is one `SchedStart`, then the default response. -/
theorem rezeroAndPlaceholdersRegister : Obligations.RezeroAndPlaceholdersRegister := by
  refine ⟨fun s p hp => ?_, encodedAs_encode rfl Laws.ClassBit.rezero, encodedAs_encode rfl Laws.ClassBit.setAttention,
    encodedAs_encode rfl Laws.ClassBit.selectiveReset, encodedAs_encode rfl Laws.ClassBit.reformatTrack,
    encodedAs_encode rfl Laws.ClassBit.spinControl⟩
  simp only [List.mem_cons, List.not_mem_nil, or_false] at hp
  rcases hp with rfl | rfl | rfl | rfl | rfl <;> rfl

/-- Settles O44: whatever the code, the error is one bit of the status, then the default response. -/
theorem unrecognizedSetsIllegalCommand : Obligations.UnrecognizedSetsIllegalCommand := fun _ _ => rfl

/-! ### What every command leaves, and the errors -/

/-- Settles O45: a command completes and leaves the bus side, read off field by field. -/
theorem everyCommandCompletesAndOwnsNoHandshake : Obligations.EveryCommandCompletesAndOwnsNoHandshake := by
  intro i s
  obtain ⟨t, hexec, hside⟩ := exec_completes i s
  simp only [State.busSide, BusSide.mk.injEq] at hside
  obtain ⟨config, inputs, draws, id, protocolState, previousPins, cmd, paramOut, ackOut, busyOut, busOut, busDrive,
    modelFaults, refusalMark⟩ := hside
  exact ⟨t, hexec, protocolState, ackOut, busyOut, busOut, busDrive, cmd, paramOut, previousPins, id, config,
    modelFaults, refusalMark, inputs, draws⟩

/-- Once clear, ILLEGAL_PARAMETER is set by illegal operands alone. -/
theorem alarmsAfter_sets_bit_iff (i : Instr) {s : State} (hclear : s.illegalParameterBit = false) :
    (alarmsAfter i s).1 = true ↔ raisesIllegalParameter i s = true := by
  rw [alarmsAfter]
  split_ifs with hraises <;> simp [hraises, State.alarms, hclear]

/-- Once clear, ILLEGAL_COMMAND is set by an unrecognized code alone (R223). -/
theorem exec_sets_illegalCommandBit_iff {i : Instr} {s t : State} (h : exec i s = .next t)
    (hclear : s.illegalCommandBit = false) : t.illegalCommandBit = true ↔ ∃ c, i = .unrecognized c := by
  rw [State.illegalCommandBit] at hclear ⊢
  cases exec_effect h with
  | raised hraises hu =>
    have hi : ¬∃ c, i = .unrecognized c := by
      rintro ⟨c, rfl⟩
      exact Bool.false_ne_true hraises
    rcases hu with rfl | rfl <;> simpa [hi, illegalParameterMask] using hclear
  | unrecognized hi => simp [hi, illegalCommandMask]
  | started htd =>
    have hi : ¬∃ c, i = .unrecognized c := by
      rintro ⟨c, rfl⟩
      exact Bool.false_ne_true htd
    simpa [hi, busyMask] using hclear
  | clearedFault hi =>
    have hbit : (clearAbsentFaults s).generalStatus.getLsbD 1 = false :=
      (clearAbsentFaults_generalStatus_getLsbD s 1).trans hclear
    simpa [hi] using hbit
  | clearedAttention hi => simp [hi, illegalCommandMask]
  | registers hi hstatus _ _ _ _ => simpa [hi, hstatus] using hclear

/-- Settles O46: ILLEGAL_PARAMETER with the attention condition, then ILLEGAL_COMMAND, then what is left of a command on
illegal operands. -/
theorem errorsAreRaisedExactly : Obligations.ErrorsAreRaisedExactly := by
  refine fun i s t h => ⟨fun hclear => ?_, exec_sets_illegalCommandBit_iff h, fun hraises => ?_⟩
  · change t.alarms.1 = true ↔ _
    rw [exec_alarms h, alarmsAfter_sets_bit_iff i hclear]
  · obtain ⟨u, hu, hexec⟩ := exec_of_raised hraises
    cases hexec.symm.trans h
    rcases hu with rfl | rfl <;> simp

end Sys2Proof.Machine

/-! PROOF. The Scheduler (42_scheduler.md R201 to R210): the counter, the poll, and a registration from its start to its
completion under unit time. -/

namespace Sys2Proof.Machine

/-- The advance writes the counter alone (R202). -/
theorem schedAdvance_frame (dt : Time) (s : State) :
    schedAdvance dt s = { s with schedElapsed := (schedAdvance dt s).schedElapsed } := by
  unfold schedAdvance
  split <;> rfl

/-- While a registration is active the counter takes the saturating sum (R202). -/
theorem schedAdvance_of_active {dt : Time} {s : State} (hactive : s.schedActive = true) :
    schedAdvance dt s = { s with schedElapsed := sat32Add s.schedElapsed dt } :=
  if_pos hactive

/-- Settles O51: the saturating sum is at least the counter. -/
theorem schedAdvanceSaturates : Obligations.SchedAdvanceSaturates := by
  intro dt s
  have helapsed : (schedAdvance dt s).schedElapsed.toNat =
      if s.schedActive then min (s.schedElapsed.toNat + dt.toNat) (2 ^ 32 - 1) else s.schedElapsed.toNat := by
    rw [schedAdvance_schedElapsed, apply_ite BitVec.toNat, sat32Add_toNat]
  refine ⟨helapsed, ?_, schedAdvance_frame dt s⟩
  rw [helapsed]
  split <;> omega

/-- A poll with nothing registered changes nothing (D38). -/
theorem schedPoll_of_inactive {s : State} (hactive : s.schedActive = false) : schedPoll s = (.complete, s) :=
  if_neg (by simp [hactive])

/-- A poll short of the duration changes nothing (R203). -/
theorem schedPoll_of_lt {s : State} (hactive : s.schedActive = true)
    (h : s.schedElapsed.toNat < s.schedDuration.toNat) : schedPoll s = (.running, s) := by
  rw [schedPoll, if_pos hactive, if_pos h]

/-- A poll at the duration completes the registration (R203). -/
theorem schedPoll_of_le {s : State} (hactive : s.schedActive = true)
    (h : s.schedDuration.toNat ≤ s.schedElapsed.toNat) : schedPoll s = (.complete, schedComplete s) := by
  rw [schedPoll, if_pos hactive, if_neg h.not_gt]

/-- Settles O50: a start writes all that a registration holds, and an elapsed time of 0 already reaches the duration 0.
-/
theorem schedStartOverwrites : Obligations.SchedStartOverwrites := by
  refine fun d a s => ⟨rfl, fun d' a' => ?_, fun dt => ?_⟩
  · have hbusy : setBits (setBits s.generalStatus busyMask) busyMask = setBits s.generalStatus busyMask := by
      rw [setBits, setBits, BitVec.or_assoc, BitVec.or_self]
    rw [schedStart, schedStart_generalStatus, hbusy]
    rfl
  · rw [schedPoll_of_le (by simp) (by simp)]

/-! ### Unit time -/

/-- The polls one after another: the last of them is one tick more. -/
theorem ticks_succ (k : Nat) (s : State) : ticks (k + 1) s = (tick (ticks k s)).2 := by
  induction k generalizing s with
  | zero => rfl
  | succ k ih => exact ih (tick s).2

/-- With nothing registered a tick answers COMPLETE and changes nothing (D38). -/
theorem tick_of_inactive {s : State} (h : s.schedActive = false) : tick s = (.complete, s) := by
  have hadvance : schedAdvance 1 s = s := if_neg (by simp [h])
  rw [tick, hadvance, schedPoll_of_inactive h]

/-- A registration of duration `d` and action `a` made in `s`, after `k` units of time. -/
def registered (d : Time) (a : SchedAction) (s : State) (k : Nat) : State :=
  { schedStart d a s with schedElapsed := BitVec.ofNat 32 k }

/-- One unit more on the counter, which is below its bound (R9, R202). -/
theorem schedAdvance_registered {d : Time} {k : Nat} (hk : k < d.toNat) (a : SchedAction) (s : State) :
    schedAdvance 1 (registered d a s k) = registered d a s (k + 1) := by
  have hone : (1 : Time).toNat = 1 := rfl
  have hsum : sat32Add (BitVec.ofNat 32 k) 1 = BitVec.ofNat 32 (k + 1) := by
    refine BitVec.eq_of_toNat_eq ?_
    rw [sat32Add_toNat, BitVec.toNat_ofNat, BitVec.toNat_ofNat, hone]
    omega
  exact (schedAdvance_of_active rfl).trans
    (congrArg (fun elapsed => { schedStart d a s with schedElapsed := elapsed }) hsum)

/-- The counter of a registration that has not run over its duration, as a number. -/
theorem registered_schedElapsed_toNat {d : Time} {k : Nat} (hk : k ≤ d.toNat) (a : SchedAction) (s : State) :
    (registered d a s k).schedElapsed.toNat = k :=
  Nat.mod_eq_of_lt (hk.trans_lt d.isLt)

/-- A tick short of the duration answers RUNNING. -/
theorem tick_registered_of_lt {d : Time} {k : Nat} (hk : k + 1 < d.toNat) (a : SchedAction) (s : State) :
    tick (registered d a s k) = (.running, registered d a s (k + 1)) := by
  rw [tick, schedAdvance_registered (by omega), schedPoll_of_lt rfl]
  rw [registered_schedElapsed_toNat hk.le]
  exact hk

/-- The tick that reaches the duration answers COMPLETE. -/
theorem tick_registered_of_eq {d : Time} {k : Nat} (hk : k + 1 = d.toNat) (a : SchedAction) (s : State) :
    tick (registered d a s k) = (.complete, schedComplete (registered d a s d.toNat)) := by
  rw [tick, schedAdvance_registered (by omega), hk, schedPoll_of_le rfl]
  rw [registered_schedElapsed_toNat le_rfl]
  exact le_rfl

/-- Before the duration the polls only count. -/
theorem ticks_schedStart_of_lt {d : Time} {k : Nat} (hk : k < d.toNat) (a : SchedAction) (s : State) :
    ticks k (schedStart d a s) = registered d a s k := by
  induction k with
  | zero => rfl
  | succ k ih => rw [ticks_succ, ih (by omega), tick_registered_of_lt hk]

/-- The completion runs the action on the position and takes BUSY back (R203). -/
theorem schedComplete_registered (d : Time) (a : SchedAction) (s : State) :
    schedComplete (registered d a s d.toNat) = { runAction a s with
      schedActive := false
      schedDuration := d
      schedElapsed := d
      schedAction := .none
      generalStatus := clearBits s.generalStatus busyMask } := by
  have hbusy : clearBits (setBits s.generalStatus busyMask) busyMask = clearBits s.generalStatus busyMask := by
    refine BitVec.eq_of_getLsbD_eq fun b _ => ?_
    rw [getLsbD_clearBits, getLsbD_setBits, getLsbD_clearBits, Bool.and_or_distrib_right, Bool.and_not_self,
      Bool.or_false]
  have helapsed : BitVec.ofNat 32 d.toNat = d := BitVec.eq_of_toNat_eq (Nat.mod_eq_of_lt d.isLt)
  rw [registered, helapsed, ← hbusy]
  cases a <;> rfl

/-- Settles O52: the polls count up to the duration, the last of them completes, and nothing is registered after it. -/
theorem schedulerRoundTrip : Obligations.SchedulerRoundTrip := by
  intro d a s hd
  have hlast : d.toNat - 1 + 1 = d.toNat := by omega
  have htick := tick_registered_of_eq hlast a s
  have hdone : ticks d.toNat (schedStart d a s) = schedComplete (registered d a s d.toNat) := by
    rw [← hlast, ticks_succ, ticks_schedStart_of_lt (by omega), htick, hlast]
  have hstays (k : Nat) (hk : d.toNat ≤ k) :
      ticks k (schedStart d a s) = schedComplete (registered d a s d.toNat) := by
    induction k, hk using Nat.le_induction with
    | base => exact hdone
    | succ k _ ih => rw [ticks_succ, ih, tick_of_inactive rfl]
  refine ⟨fun k hk => ?_, ?_, hdone.trans (schedComplete_registered d a s), fun k hk => ?_⟩
  · rw [ticks_schedStart_of_lt (by omega), ticks_schedStart_of_lt hk, tick_registered_of_lt hk]
    exact ⟨rfl, registered_schedElapsed_toNat hk.le a s, rfl, rfl⟩
  · rw [ticks_schedStart_of_lt (by omega), htick]
  · rw [hstays k hk, hdone, tick_of_inactive rfl]

end Sys2Proof.Machine

/-! PROOF. Boot reset, and a step by its input (70_reset_and_hazards.md R260; 00_scope.md R4; 60_exceptions.md R234). -/

namespace Sys2Proof.Machine

/-- Settles O53: element by element the state that boot is defined to be; the empty table reads as 0x00 everywhere. -/
theorem bootResetState : Obligations.BootResetState := by
  refine ⟨fun c => ?_, rfl⟩
  and_intros <;> intros <;> rfl

/-- Settles O5: a listed input is the one taken. -/
theorem stepAppliesTheListedInput : Obligations.StepAppliesTheListedInput :=
  fun _ _ ha => ⟨fun _ _ hi => step_of_listed ha hi, fun _ _ hi => step_of_listed ha hi⟩

/-- A cycle refuses exactly in READING and WRITING, with one reason (R121). -/
theorem cycle_refused_iff (smp : Sample) (dt : Time) (s : State) (r : Refusal) :
    cycle smp dt s = .refused r ↔
      (s.protocolState = .reading ∨ s.protocolState = .writing) ∧ r = .dataPhaseUnmodelled := by
  constructor
  · intro h
    rcases cycle_outcome smp dt s with ⟨t, ht⟩ | ⟨hp, hrefused⟩
    · exact nomatch ht.symm.trans h
    · cases hrefused.symm.trans h
      exact ⟨hp, rfl⟩
  · rintro ⟨hp, rfl⟩
    exact cycle_of_dataPhase smp dt hp

/-- Settles O8: the configuration is checked before the input is looked at, and of the inputs only a cycle can refuse.
-/
theorem stepRefusesExactly : Obligations.StepRefusesExactly := by
  intro s r
  obtain ⟨inputs, draws, htake⟩ := takeInput_state s
  have hp : (takeInput s).2.protocolState = s.protocolState := by rw [htake]
  rw [step, pollStep]
  cases s.config.admissible with
  | false => simp [eq_comm]
  | true =>
    cases (takeInput s).1 with
    | cycle smp dt => simp [applyInput, cycle_refused_iff, hp]
    | sense n mask => simp [applyInput]

end Sys2Proof.Machine

/-! PROOF. The common phases as one equation, and what a cycle makes of the model's record: the snapshot and the fault
set (40_bus_state_machine.md R100 to R105). Both are written and never read. -/

namespace Sys2Proof.Machine

/-! ### The common phases -/

/-- Recording a fault writes the fault set alone. -/
theorem recordFault_eq (r : Fault) (s : State) :
    recordFault r s = { s with modelFaults := if r ∈ s.modelFaults then s.modelFaults else s.modelFaults ++ [r] } := by
  unfold recordFault
  split <;> rfl

/-- The protocol check writes the fault set alone (R104). -/
theorem protocolCheck_frame (smp : Sample) (s : State) :
    ∃ faults, protocolCheck smp s = { s with modelFaults := faults } := by
  unfold protocolCheck
  split
  · exact ⟨_, recordFault_eq _ s⟩
  · exact ⟨_, rfl⟩

/-- The release phase writes the acknowledge alone (R102). -/
theorem releaseAck_frame (smp : Sample) (s : State) : ∃ ack, releaseAck smp s = { s with ackOut := ack } := by
  unfold releaseAck
  split <;> exact ⟨_, rfl⟩

/-- The common phases write the direction, the acknowledge, the counter and the fault set (R101 to R104). -/
theorem commonPhases_eq (smp : Sample) (dt : Time) (s : State) :
    commonPhases smp dt s = { s with
      busDrive := smp.dir == .d2h
      ackOut := if !smp.sel && !smp.cmdReq && !smp.paramReq then false else s.ackOut
      schedElapsed := if s.schedActive then sat32Add s.schedElapsed dt else s.schedElapsed
      modelFaults :=
        if s.protocolState.isHandshake && (smp.readGate || smp.writeGate) then
          if .protocolViolation ∈ s.modelFaults then s.modelFaults else s.modelFaults ++ [.protocolViolation]
        else s.modelFaults } := by
  rw [← commonPhases_ackOut smp dt, ← commonPhases_schedElapsed smp dt]
  have hfaults := commonPhases_modelFaults smp dt s
  rw [recordFault_eq] at hfaults
  rw [← hfaults]
  obtain ⟨ack, hack⟩ := releaseAck_frame smp (setDirection smp s)
  obtain ⟨faults, hcheck⟩ := protocolCheck_frame smp (schedAdvance dt (releaseAck smp (setDirection smp s)))
  have hframe : commonPhases smp dt s = { s with
      busDrive := smp.dir == .d2h
      ackOut := ack
      schedElapsed := (schedAdvance dt (releaseAck smp (setDirection smp s))).schedElapsed
      modelFaults := faults } := by
    rw [commonPhases, hcheck, schedAdvance_frame, hack]
    rfl
  rw [hframe]

/-! ### The record -/

/-- Another snapshot. -/
def State.withPins (p : Sample) (s : State) : State := { s with previousPins := p }

/-- Another snapshot and another fault set. -/
def State.withRecord (p : Sample) (faults : List Fault) (s : State) : State :=
  { s with previousPins := p, modelFaults := faults }

/-- An outcome with its next state, if it has one, changed by `f`. -/
def onNext (f : State → State) : Host.Outcome State Fault Refusal → Host.Outcome State Fault Refusal
  | .next t => .next (f t)
  | .fault r => .fault r
  | .refused r => .refused r

/-- A cycle is its state rule after the common phases, with the snapshot kept (R100, R105). -/
theorem cycle_eq (smp : Sample) (dt : Time) (s : State) :
    cycle smp dt s = onNext (.withPins smp) (stateRule smp (commonPhases smp dt s)) := by
  unfold cycle
  cases stateRule smp (commonPhases smp dt s) <;> rfl

section
variable (p : Sample) (faults : List Fault)

theorem attrEnsureInit_withRecord (s : State) :
    attrEnsureInit (s.withRecord p faults) = (attrEnsureInit s).withRecord p faults := by
  cases hinit : s.attributesInitialized with
  | true => rw [attrEnsureInit_of_initialized hinit, attrEnsureInit_of_initialized (s := s.withRecord p faults) hinit]
  | false =>
    rw [attrEnsureInit_of_uninitialized hinit, attrEnsureInit_of_uninitialized (s := s.withRecord p faults) hinit]
    rfl

theorem memWrite_withRecord (i : Fin attributeTableSize) (v : Byte) (s : State) :
    memWrite i v (s.withRecord p faults) = (memWrite i v s).withRecord p faults := by
  rw [memWrite, attrEnsureInit_withRecord]
  rfl

/-- No command reads the record. -/
theorem exec_withRecord (i : Instr) (s : State) :
    exec i (s.withRecord p faults) = onNext (.withRecord p faults) (exec i s) := by
  cases i with
  | seek =>
    rcases Nat.lt_or_ge (s.loadCylinderHigh.toNat * 256 + s.loadCylinderLow.toNat) s.config.geometry.cylinders with
      hlt | hle
    · rw [exec_seek_of_lt hlt, exec_seek_of_lt (s := s.withRecord p faults) hlt]
      rfl
    · rw [exec_seek_of_le hle, exec_seek_of_le (s := s.withRecord p faults) hle]
      rfl
  | selectHead =>
    rcases Nat.lt_or_ge s.paramOut.toNat s.config.geometry.heads with hlt | hle
    · rw [exec_selectHead_of_lt hlt, exec_selectHead_of_lt (s := s.withRecord p faults) hlt]
      rfl
    · rw [exec_selectHead_of_le hle, exec_selectHead_of_le (s := s.withRecord p faults) hle]
      rfl
  | loadAttribute =>
    rcases Nat.lt_or_ge s.attributeNumber.toNat attributeTableSize with hlt | hle
    · rw [exec_loadAttribute_of_lt hlt, exec_loadAttribute_of_lt (s := s.withRecord p faults) hlt, memWrite_withRecord]
      rfl
    · rw [exec_loadAttribute_of_le hle, exec_loadAttribute_of_le (s := s.withRecord p faults) hle,
        attrEnsureInit_withRecord]
      rfl
  | reportAttribute =>
    rcases Nat.lt_or_ge s.attributeNumber.toNat attributeTableSize with hlt | hle
    · rw [exec_reportAttribute_of_lt hlt, exec_reportAttribute_of_lt (s := s.withRecord p faults) hlt,
        attrEnsureInit_withRecord]
      rfl
    · rw [exec_reportAttribute_of_le hle, exec_reportAttribute_of_le (s := s.withRecord p faults) hle,
        attrEnsureInit_withRecord]
      rfl
  | _ => rfl

theorem schedComplete_withRecord (s : State) :
    schedComplete (s.withRecord p faults) = (schedComplete s).withRecord p faults := by
  have haction (a : SchedAction) : runAction a (s.withRecord p faults) = (runAction a s).withRecord p faults := by
    cases a <;> rfl
  rw [schedComplete, show (s.withRecord p faults).schedAction = s.schedAction from rfl, haction]
  rfl

/-- No state rule reads the record; it keeps the fault set, and re-initialization alone writes the snapshot (R261),
which the cycle then overwrites with `q`. -/
theorem stateRule_withRecord (q smp : Sample) (s : State) :
    onNext (.withPins q) (stateRule smp (s.withRecord p faults)) =
      onNext (.withRecord q faults) (stateRule smp s) := by
  have hstate : (s.withRecord p faults).protocolState = s.protocolState := rfl
  rw [stateRule, stateRule, hstate]
  cases s.protocolState with
  | disconnected =>
    simp only [ruleDisconnected]
    split <;> rfl
  | connected =>
    have hid : (s.withRecord p faults).id = s.id := rfl
    simp only [ruleConnected, hid]
    split_ifs <;> rfl
  | selected =>
    have hid : (s.withRecord p faults).id = s.id := rfl
    simp only [ruleSelected, hid]
    split_ifs <;> rfl
  | readCommand => rfl
  | awaitingParamOut =>
    simp only [ruleAwaitingParamOut]
    split <;> rfl
  | executeCommand =>
    have hline (b : Bool) : assertBusyIf b (s.withRecord p faults) = (assertBusyIf b s).withRecord p faults := rfl
    have hcode : decode (s.withRecord p faults).config.codes (s.withRecord p faults).cmd =
        decode s.config.codes s.cmd := rfl
    have hclass : commandIsTimeDependent (s.withRecord p faults).config.codes (s.withRecord p faults).cmd =
        commandIsTimeDependent s.config.codes s.cmd := rfl
    simp only [ruleExecuteCommand, hcode, hclass, hline, exec_withRecord]
    cases exec (decode s.config.codes s.cmd) (assertBusyIf (commandIsTimeDependent s.config.codes s.cmd) s) <;> rfl
  | awaitingParamIn =>
    simp only [ruleAwaitingParamIn]
    split <;> rfl
  | awaitingTimeDependentCommand =>
    rcases schedPoll_cases s with ⟨hactive, hpoll⟩ | ⟨hactive, hlt, hpoll⟩ | ⟨hactive, hle, hpoll⟩
    · simp only [ruleAwaitingTimeDependentCommand, hpoll, schedPoll_of_inactive (s := s.withRecord p faults) hactive]
      rfl
    · simp only [ruleAwaitingTimeDependentCommand, hpoll, schedPoll_of_lt (s := s.withRecord p faults) hactive hlt]
      rfl
    · simp only [ruleAwaitingTimeDependentCommand, hpoll, schedPoll_of_le (s := s.withRecord p faults) hactive hle,
        schedComplete_withRecord]
      rfl
  | reading => rfl
  | writing => rfl

end

end Sys2Proof.Machine

/-! PROOF. The cycle: the common phases and the record (40_bus_state_machine.md section 1), the rules of SELECTED,
READ_COMMAND and the wait (sections 2 and 3), and the transition table (section 4). -/

namespace Sys2Proof.Machine

/-! ### What every state rule leaves -/

/-- The direction, the fault set and the refusal mark after a state rule are those before it: re-initialization keeps
them too (R261). -/
theorem stateRule_keeps_bookkeeping {smp : Sample} {s t : State} (h : stateRule smp s = .next t) :
    t.busDrive = s.busDrive ∧ t.modelFaults = s.modelFaults ∧ t.refusalMark = s.refusalMark := by
  cases stateRule_effect h with
  | handshake hmove =>
    rw [hmove.frame]
    exact ⟨rfl, rfl, rfl⟩
  | reinitialized _ _ => exact ⟨rfl, rfl, rfl⟩
  | executed _ hexec =>
    have hside := exec_busSide hexec
    exact ⟨congrArg BusSide.busDrive hside, congrArg BusSide.modelFaults hside, congrArg BusSide.refusalMark hside⟩
  | completed _ _ _ => exact ⟨schedComplete_busDrive s, schedComplete_modelFaults s, schedComplete_refusalMark s⟩
  | polledEmpty _ _ => exact ⟨rfl, rfl, rfl⟩

/-- With every line low a state rule leaves the acknowledge down but in READ_COMMAND (R116). -/
theorem stateRule_ack_quiet {smp : Sample} {s t : State} (h : stateRule smp s = .next t) (hsel : smp.sel = false)
    (hreq : smp.paramReq = false) (hack : s.ackOut = false) : t.ackOut = decide (s.protocolState = .readCommand) := by
  cases stateRule_effect h with
  | handshake hmove => rw [hmove.ack_quiet hsel hreq, hack, Bool.false_or]
  | reinitialized hp _ => simp [hp, State.boot]
  | executed hp hexec =>
    have hkept := congrArg BusSide.ackOut (exec_busSide hexec)
    exact hkept.trans (by simp [State.busSide, hp, hack])
  | completed hp _ _ => simp [hp, hack]
  | polledEmpty hp _ => simp [hp, hack]

/-- Re-initialization alone takes the acknowledge down (R107). -/
theorem stateRule_ack_kept {smp : Sample} {s t : State} (h : stateRule smp s = .next t) (hack : s.ackOut = true)
    (hfalls : t.ackOut = false) : s.protocolState = .connected ∧ smp.enable = false := by
  cases stateRule_effect h with
  | handshake hmove => exact absurd (hmove.ack_kept hack) (by simp [hfalls])
  | reinitialized hp henable => exact ⟨hp, henable⟩
  | executed _ hexec =>
    have hkept := congrArg BusSide.ackOut (exec_busSide hexec)
    exact absurd (hkept.trans hack) (by simpa [State.busSide] using hfalls)
  | completed _ _ _ => exact absurd hfalls (by simp [hack])
  | polledEmpty _ _ => exact absurd hfalls (by simp [hack])

/-! ### The common phases of a cycle -/

/-- Settles O9: the first phase writes the direction whatever it was, and no later one writes it again. -/
theorem directionFollowsTheSample : Obligations.DirectionFollowsTheSample := by
  refine fun smp dt s => ⟨fun t h => ?_, fun b => rfl⟩
  obtain ⟨u, hrule, rfl⟩ := cycle_next h
  obtain ⟨hdrive, -, -⟩ := stateRule_keeps_bookkeeping hrule
  exact hdrive.trans (commonPhases_busDrive smp dt s)

/-- Settles O10: the release phase, then what the state rules do to the acknowledge. -/
theorem acknowledgeFallsOnlyOnRelease : Obligations.AcknowledgeFallsOnlyOnRelease := by
  intro smp dt s t h
  obtain ⟨u, hrule, rfl⟩ := cycle_next h
  refine ⟨fun hsel hcmd hparam => ?_, fun hline hack hfalls => ?_⟩
  · rw [← commonPhases_protocolState smp dt s]
    change u.ackOut = _
    exact stateRule_ack_quiet hrule hsel hparam (by simp [hsel, hcmd, hparam])
  · have hkept : (commonPhases smp dt s).ackOut = true := by
      rw [commonPhases_ackOut, if_neg, hack]
      rcases hline with h | h | h <;> simp [h]
    rw [← commonPhases_protocolState smp dt s]
    exact stateRule_ack_kept hrule hkept hfalls

/-- In a handshake state the rule reads no gate. -/
theorem stateRule_gates {smp : Sample} {s : State} (hs : s.protocolState.isHandshake = true) :
    stateRule { smp with readGate := false, writeGate := false } s = stateRule smp s := by
  unfold stateRule
  cases hp : s.protocolState with
  | disconnected | connected | selected =>
    rw [hp] at hs
    exact absurd hs Bool.false_ne_true
  | readCommand | awaitingParamOut | executeCommand | awaitingParamIn | awaitingTimeDependentCommand => rfl
  | reading | writing => rfl

/-- The gates in the common phases show in the fault set alone. -/
theorem commonPhases_gates (smp : Sample) (dt : Time) (s : State) :
    commonPhases smp dt s =
      (commonPhases { smp with readGate := false, writeGate := false } dt s).withRecord s.previousPins
        (commonPhases smp dt s).modelFaults := by
  rw [commonPhases_eq, commonPhases_eq]
  rfl

/-- Settles O11: the violation is recorded by the common phases and kept by the rule; without the gates the rule runs on
the same state but for the fault set, which it does not read. -/
theorem protocolViolationRecordedAndHarmless : Obligations.ProtocolViolationRecordedAndHarmless := by
  refine fun smp dt s => ⟨fun t h => ?_, fun hs => ?_⟩
  · obtain ⟨u, hrule, rfl⟩ := cycle_next h
    obtain ⟨-, hfaults, hmark⟩ := stateRule_keeps_bookkeeping hrule
    refine ⟨?_, hmark.trans (commonPhases_refusalMark smp dt s)⟩
    change _ ∈ u.modelFaults ↔ _
    rw [hfaults, commonPhases_modelFaults]
    split_ifs with hgate
    · simp only [Bool.and_eq_true, Bool.or_eq_true] at hgate
      exact iff_of_true ((mem_recordFault _ _ s).mpr (.inl rfl)) (.inr hgate)
    · simp only [Bool.and_eq_true, Bool.or_eq_true] at hgate
      exact (or_iff_left hgate).symm
  · obtain ⟨t, ht⟩ := (stateRule_outcome smp
      (commonPhases { smp with readGate := false, writeGate := false } dt s)).resolve_right (by
        rintro ⟨hp | hp, -⟩ <;> rw [commonPhases_protocolState] at hp <;> simp [hp, ProtocolState.isHandshake] at hs)
    have hquiet := cycle_eq { smp with readGate := false, writeGate := false } dt s
    rw [stateRule_gates (by rwa [commonPhases_protocolState]), ht] at hquiet
    have hgates := cycle_eq smp dt s
    rw [commonPhases_gates, stateRule_withRecord, ht] at hgates
    exact ⟨_, _, hgates, hquiet, rfl⟩

/-- Settles O12: the snapshot is the last thing a cycle writes, and no phase and no rule reads it. -/
theorem snapshotKeptAndNeverRead : Obligations.SnapshotKeptAndNeverRead := by
  refine fun smp dt s => ⟨fun t h => ?_, fun p => ?_⟩
  · obtain ⟨u, -, rfl⟩ := cycle_next h
    rfl
  · have hcommon : commonPhases smp dt { s with previousPins := p } =
        (commonPhases smp dt s).withRecord p (commonPhases smp dt s).modelFaults := by
      rw [commonPhases_eq, commonPhases_eq]
      rfl
    have hsame := stateRule_withRecord (commonPhases smp dt s).previousPins (commonPhases smp dt s).modelFaults smp smp
      (commonPhases smp dt s)
    rw [cycle_eq, cycle_eq, hcommon, stateRule_withRecord]
    exact hsame.symm

/-! ### The state rules -/

/-- Settles O14: the rule of CONNECTED re-initializes; outside the handshake states the fault set it keeps is the old
one. -/
theorem lossOfEnableReinitializes : Obligations.LossOfEnableReinitializes := by
  intro smp dt s hp henable
  have hrule : stateRule smp (commonPhases smp dt s) =
      .next { reinit (commonPhases smp dt s) with protocolState := .disconnected } := by
    rw [stateRule_commonPhases_connected smp dt hp, ruleConnected, henable]
    rfl
  rw [cycle_of_stateRule hrule, commonPhases_eq, hp]
  rfl

/-- The radial byte has bit `id` alone (R89, R114). -/
theorem radialByte_getLsbD (id : DeviceId) (b : Nat) : (radialByte id).getLsbD b = decide (b = id.toNat) := by
  have hid := id.isLt
  have hbyte : radialByte id = BitVec.twoPow 8 id.toNat := rfl
  rw [hbyte, BitVec.getLsbD_twoPow]
  simp only [eq_comm (a := b)]
  exact Bool.and_eq_right_iff_imp.mpr fun _ => decide_eq_true (by omega)

/-- Settles O18: the sixth branch of R109, whose direction has the device drive the bus (R101), and its last. -/
theorem radialStatusAndIdle : Obligations.RadialStatusAndIdle := by
  intro smp dt s hp hread hwrite
  have hrule := stateRule_commonPhases_selected smp dt hp
  refine ⟨fun hsel hdir => ?_, fun hsel hreq => ?_⟩
  · have hr : ruleSelected smp (commonPhases smp dt s) =
        .next { commonPhases smp dt s with busOut := radialByte s.id } := by
      rw [ruleSelected, commonPhases_id]
      simp [hread, hwrite, hsel, hdir]
    have hdrive : (commonPhases smp dt s).busDrive = true := by simp [hdir]
    exact ⟨_, cycle_of_stateRule (hrule.trans hr), rfl, radialByte_getLsbD s.id, if_pos hdrive⟩
  · have hr : ruleSelected smp (commonPhases smp dt s) = .next (commonPhases smp dt s) := by
      rw [ruleSelected, if_neg (by simpa using hreq)]
      simp [hread, hwrite, hsel]
    exact cycle_of_stateRule (hrule.trans hr)

/-- The cycle of READ_COMMAND, by the class of the byte it latches (R116). -/
theorem cycle_of_readCommand (smp : Sample) (dt : Time) {s : State} (hp : s.protocolState = .readCommand) :
    cycle smp dt s = .next { commonPhases smp dt s with
      cmd := smp.bus
      ackOut := true
      protocolState := if commandIsParamOut smp.bus then .awaitingParamOut else .executeCommand
      previousPins := smp } := by
  have hrule : stateRule smp (commonPhases smp dt s) = ruleReadCommand smp (commonPhases smp dt s) := by
    rw [stateRule, commonPhases_protocolState, hp]
  exact cycle_of_stateRule (hrule.trans rfl)

/-- Settles O19: the rule tests no line; the class is bit 7 (R81). -/
theorem readCommandLatchesUnconditionally : Obligations.ReadCommandLatchesUnconditionally := by
  intro smp dt s hp
  rw [cycle_of_readCommand smp dt hp, commandIsParamOut]
  cases smp.bus.getLsbD 7 <;> rfl

/-- The completion writes the registration, BUSY and the position (R203). -/
theorem schedComplete_frame (s : State) :
    schedComplete s = { s with
      schedActive := false
      schedAction := .none
      generalStatus := s.generalStatus &&& 0xFE
      currentCylinderHigh := (schedComplete s).currentCylinderHigh
      currentCylinderLow := (schedComplete s).currentCylinderLow } := by
  unfold schedComplete
  cases s.schedAction <;> rfl

/-- The position a completion leaves: the captured one, zero, or the one there was (R205 to R207). -/
theorem schedComplete_position (s : State) :
    (schedComplete s).position = match s.schedAction with
      | .commitSeek hi lo => (hi, lo)
      | .commitRezero => (0x00, 0x00)
      | .none => s.position := by
  unfold schedComplete
  cases s.schedAction <;> rfl

@[simp] theorem commonPhases_position (smp : Sample) (dt : Time) (s : State) :
    (commonPhases smp dt s).position = s.position := by
  simp [State.position]

/-- Settles O23: the three answers of the poll, on the elapsed time that the common phases leave. -/
theorem timeDependentCompletion : Obligations.TimeDependentCompletion := by
  intro smp dt s hp
  have hrule : stateRule smp (commonPhases smp dt s) = ruleAwaitingTimeDependentCommand (commonPhases smp dt s) := by
    rw [stateRule, commonPhases_protocolState, hp]
  have helapsed (hactive : s.schedActive = true) : (commonPhases smp dt s).schedElapsed.toNat =
      min (s.schedElapsed.toNat + dt.toNat) (2 ^ 32 - 1) := by
    rw [commonPhases_schedElapsed_toNat, elapsedSeen, if_pos hactive]
  refine ⟨fun hactive hlt => ?_, fun hactive hle => ?_, fun hactive => ?_⟩
  · rw [← helapsed hactive, ← commonPhases_schedDuration smp dt s] at hlt
    rw [← commonPhases_schedActive smp dt s] at hactive
    rw [ruleAwaitingTimeDependentCommand, schedPoll_of_lt hactive hlt] at hrule
    exact cycle_of_stateRule hrule
  · rw [← helapsed hactive, ← commonPhases_schedDuration smp dt s] at hle
    rw [← commonPhases_schedActive smp dt s] at hactive
    rw [ruleAwaitingTimeDependentCommand, schedPoll_of_le hactive hle] at hrule
    have hposition := schedComplete_position (commonPhases smp dt s)
    rw [commonPhases_schedAction, commonPhases_position] at hposition
    refine ⟨_, cycle_of_stateRule hrule, ?_, fun hi lo haction => ?_, fun haction => ?_, fun haction => ?_⟩
    · rw [schedComplete_frame, commonPhases_generalStatus]
    · rw [haction] at hposition
      exact Prod.mk.inj hposition
    · rw [haction] at hposition
      exact Prod.mk.inj hposition
    · rw [haction] at hposition
      exact Prod.mk.inj hposition
  · rw [← commonPhases_schedActive smp dt s] at hactive
    rw [ruleAwaitingTimeDependentCommand, schedPoll_of_inactive hactive] at hrule
    exact cycle_of_stateRule hrule

end Sys2Proof.Machine

/-! PROOF. The transition table (40_bus_state_machine.md section 4), and who writes what along a cycle (10_state.md
sections 2 and 4; 60_exceptions.md sections 4 and 5). -/

namespace Sys2Proof.Machine

/-! ### The transition table -/

/-- The table has no edge exactly from READING and WRITING (R121). -/
theorem edge_eq_none_iff (smp : Sample) (dt : Time) (s : State) :
    edge smp dt s = none ↔ s.protocolState = .reading ∨ s.protocolState = .writing := by
  unfold edge
  cases s.protocolState <;> simp

section
variable {smp : Sample} {s t : State}

theorem ruleDisconnected_protocolState (hp : s.protocolState = .disconnected)
    (h : ruleDisconnected smp s = .next t) :
    t.protocolState = if smp.enable then .connected else .disconnected := by
  rcases ruleDisconnected_cases smp s with ⟨henable, hr⟩ | ⟨henable, hr⟩ <;> cases hr.symm.trans h <;>
    simp [henable, hp]

theorem ruleConnected_protocolState (hp : s.protocolState = .connected) (h : ruleConnected smp s = .next t) :
    t.protocolState =
      if !smp.enable then .disconnected
      else if smp.sel && smp.dir == .h2d && smp.bus.getLsbD s.id.toNat then .selected else .connected := by
  rw [← selectedBy]
  rcases ruleConnected_cases smp s with ⟨henable, hr⟩ | ⟨henable, hsel, hdir, hmask, hr⟩ | ⟨henable, hno, hr⟩ <;>
    cases hr.symm.trans h
  · simp [henable]
  · simp [henable, hsel, hdir, hmask]
  · rw [hp, henable, if_neg (by decide), if_neg (by simpa [and_assoc] using hno)]

theorem ruleSelected_protocolState (hp : s.protocolState = .selected) (h : ruleSelected smp s = .next t) :
    t.protocolState =
      if smp.dir == .h2d && smp.cmdReq then .readCommand
      else if smp.readGate then .reading
      else if smp.writeGate then .writing
      else if smp.sel && smp.dir == .h2d && !smp.bus.getLsbD s.id.toNat then .connected else .selected := by
  rw [← selectedBy]
  rcases ruleSelected_cases smp s with ⟨hdir, hreq, hr⟩ | ⟨hreq, hread, hr⟩ | ⟨hreq, hread, hwrite, hr⟩ |
    ⟨hreq, hread, hwrite, -, -, hmask, hr⟩ | ⟨hreq, hread, hwrite, hsel, hdir, hmask, hr⟩ |
    ⟨hread, hwrite, -, hdir, hr⟩ | ⟨hreq, hread, hwrite, hsel, hr⟩ <;> cases hr.symm.trans h
  · simp [hdir, hreq]
  · simp [hreq, hread]
  · simp [hreq, hread, hwrite]
  · simp [hreq, hread, hwrite, hmask, hp]
  · simp [hreq, hread, hwrite, hsel, hdir, hmask]
  · simp [hread, hwrite, hdir, hp]
  · simp [hreq, hread, hwrite, hsel, hp]

/-- The wait is left exactly when nothing is registered or the registration is due (R119, R203). -/
theorem ruleAwaitingTimeDependentCommand_protocolState (hp : s.protocolState = .awaitingTimeDependentCommand)
    (h : ruleAwaitingTimeDependentCommand s = .next t) :
    t.protocolState =
      if !s.schedActive || decide (s.schedDuration.toNat ≤ s.schedElapsed.toNat) then .selected
      else .awaitingTimeDependentCommand := by
  rcases ruleAwaitingTimeDependentCommand_cases s with ⟨hactive, hlt, hr⟩ | ⟨hactive, hle, hr⟩ | ⟨hactive, hr⟩ <;>
    cases hr.symm.trans h
  · simp [hactive, hlt, hp]
  · simp [hactive, hle]
  · simp [hactive]

end

/-- The state after a cycle that goes on is the table's: the rules read of the common phases what the table reads. -/
theorem edge_of_cycle {smp : Sample} {dt : Time} {s t : State} (h : cycle smp dt s = .next t) :
    edge smp dt s = some t.protocolState := by
  obtain ⟨u, hrule, rfl⟩ := cycle_next h
  change _ = some u.protocolState
  rw [edge, ← commonPhases_protocolState smp dt s]
  rcases stateRule_cases hrule with ⟨hp, hr⟩ | ⟨hp, hr⟩ | ⟨hp, hr⟩ | ⟨hp, hr⟩ | ⟨hp, ⟨hdir, hreq, hr⟩ | ⟨hreq, hr⟩⟩ |
    ⟨hp, v, -, hr⟩ | ⟨hp, ⟨hdir, hreq, hr⟩ | ⟨hreq, hr⟩⟩ | ⟨hp, hr⟩
  · rw [ruleDisconnected_protocolState hp hr, hp]
  · rw [ruleConnected_protocolState hp hr, hp, commonPhases_id]
  · rw [ruleSelected_protocolState hp hr, hp, commonPhases_id]
  · rw [hr, hp, commandIsParamOut]
    cases smp.bus.getLsbD 7 <;> rfl
  · rw [hr, hp]
    simp [hdir, hreq]
  · rw [hr, hp]
    simp [hreq]
  · rw [hr, hp, afterExecute_eq, commonPhases_config, commonPhases_cmd]
  · rw [hr, hp]
    simp [hdir, hreq]
  · rw [hr, hp]
    simp [hreq]
  · rw [ruleAwaitingTimeDependentCommand_protocolState hp hr, hp,
      commonPhases_schedActive, commonPhases_schedDuration, commonPhases_schedElapsed_toNat, pollCompletes]

/-- Settles O24: the table's states are those of the rules, and its gaps those of the refusals. -/
theorem transitionGraphIsComplete : Obligations.TransitionGraphIsComplete := by
  refine fun smp dt s => ⟨fun t => edge_of_cycle, ?_, fun hedge => ?_⟩
  · rw [edge_eq_none_iff, cycle_refused_iff]
    simp
  · rw [Ne, edge_eq_none_iff] at hedge
    exact (cycle_outcome smp dt s).resolve_right fun h => hedge h.1

/-- Outside DISCONNECTED and CONNECTED no rule reads the enable line (D26). -/
theorem stateRule_enable (smp : Sample) (e : Bool) {s : State} (hdisconnected : s.protocolState ≠ .disconnected)
    (hconnected : s.protocolState ≠ .connected) :
    stateRule { smp with enable := e } s = stateRule smp s := by
  unfold stateRule
  cases hp : s.protocolState with
  | disconnected => exact absurd hp hdisconnected
  | connected => exact absurd hp hconnected
  | _ => rfl

/-- Settles O25: the common phases do not read the enable line either, so only the snapshot shows it. -/
theorem enableReadOnlyInTwoStates : Obligations.EnableReadOnlyInTwoStates := by
  intro smp dt s t e hdisconnected hconnected h
  obtain ⟨u, hrule, rfl⟩ := cycle_next h
  have hsame := stateRule_enable smp e (s := commonPhases smp dt s) (by simpa using hdisconnected)
    (by simpa using hconnected)
  have hrule' : stateRule { smp with enable := e } (commonPhases smp dt s) = .next u := hsame.trans hrule
  have hcycle := cycle_of_stateRule (smp := { smp with enable := e }) (dt := dt) (s := s) hrule'
  exact hcycle

/-! ### Who writes what -/

/-- Each latch after a state rule, but for re-initialization and the latch's own state (R25, R26). -/
theorem stateRule_latches {smp : Sample} {s t : State} (h : stateRule smp s = .next t)
    (hreinit : ¬(s.protocolState = .connected ∧ smp.enable = false)) :
    (s.protocolState ≠ .readCommand → t.cmd = s.cmd) ∧
      (s.protocolState ≠ .awaitingParamOut → t.paramOut = s.paramOut) ∧
      (s.protocolState ≠ .executeCommand → t.paramIn = s.paramIn) := by
  cases stateRule_effect h with
  | handshake hmove => exact ⟨hmove.cmd_eq, hmove.paramOut_eq, fun _ => by rw [hmove.frame]⟩
  | reinitialized hp henable => exact absurd ⟨hp, henable⟩ hreinit
  | executed hp hexec =>
    have hside := exec_busSide hexec
    exact ⟨fun _ => congrArg BusSide.cmd hside, fun _ => congrArg BusSide.paramOut hside, fun hne => absurd hp hne⟩
  | completed _ _ _ =>
    exact ⟨fun _ => schedComplete_cmd s, fun _ => schedComplete_paramOut s, fun _ => schedComplete_paramIn s⟩
  | polledEmpty _ _ => exact ⟨fun _ => rfl, fun _ => rfl, fun _ => rfl⟩

/-- Settles O26: the common phases write no latch, and each rule at most its own. -/
theorem latchesHaveOneWriter : Obligations.LatchesHaveOneWriter := by
  intro smp dt s t h hreinit
  obtain ⟨u, hrule, rfl⟩ := cycle_next h
  simpa using stateRule_latches hrule (by simpa using hreinit)

/-- No command writes the position: a positioning command registers it for the completion (R152, R153). -/
theorem exec_position {i : Instr} {s t : State} (h : exec i s = .next t) : t.position = s.position := by
  cases exec_effect h with
  | raised _ hu => rcases hu with rfl | rfl <;> simp [State.position]
  | clearedFault _ => simp [State.position, clearAbsentFaults]
  | registers _ _ _ _ hposition _ => exact hposition
  | _ => rfl

/-- The position after a state rule is the old one but for re-initialization and a completion. -/
theorem stateRule_position {smp : Sample} {s t : State} (h : stateRule smp s = .next t) :
    t.position = s.position ∨ (s.protocolState = .connected ∧ smp.enable = false) ∨
      (s.protocolState = .awaitingTimeDependentCommand ∧ s.schedActive = true ∧
        s.schedDuration.toNat ≤ s.schedElapsed.toNat ∧ t.position = (schedComplete s).position) := by
  cases stateRule_effect h with
  | handshake hmove =>
    rw [hmove.frame]
    exact .inl rfl
  | reinitialized hp henable => exact .inr (.inl ⟨hp, henable⟩)
  | executed _ hexec =>
    have hkept := exec_position hexec
    exact .inl hkept
  | completed hp hactive hdue => exact .inr (.inr ⟨hp, hactive, hdue, rfl⟩)
  | polledEmpty _ _ => exact .inl rfl

/-- Settles O27: a position that moved was written by a completion, whose action says where to. -/
theorem currentCylinderWrittenOnlyAtCompletion : Obligations.CurrentCylinderWrittenOnlyAtCompletion := by
  intro smp dt s t h hreinit hmoved
  obtain ⟨u, hrule, rfl⟩ := cycle_next h
  have hposition : u.position ≠ s.position := fun heq => hmoved (by
    obtain ⟨hhigh, hlow⟩ := Prod.mk.inj heq
    rw [hhigh, hlow])
  have hcases := stateRule_position hrule
  rw [commonPhases_position, commonPhases_protocolState, commonPhases_schedActive, commonPhases_schedDuration,
    commonPhases_schedElapsed_toNat, schedComplete_position, commonPhases_schedAction, commonPhases_position] at hcases
  obtain ⟨hp, hactive, hdue, hcommit⟩ := (hcases.resolve_left hposition).resolve_left hreinit
  refine ⟨hp, hactive, (pollCompletes_iff_of_active dt hactive).mpr hdue, ?_⟩
  cases haction : s.schedAction with
  | none =>
    rw [haction] at hcommit
    exact absurd hcommit hposition
  | commitSeek hi lo =>
    rw [haction] at hcommit
    obtain ⟨rfl, rfl⟩ := Prod.mk.inj hcommit
    exact .inl rfl
  | commitRezero =>
    rw [haction] at hcommit
    obtain ⟨hhigh, hlow⟩ := Prod.mk.inj hcommit
    refine .inr ⟨rfl, ?_⟩
    change cylinderNumber u.currentCylinderHigh u.currentCylinderLow = 0
    rw [hhigh, hlow]
    rfl

/-! ### Sense bytes and attention along a cycle -/

/-- States with one sense side have the same sense bytes. -/
theorem senseByte_of_senseSide {s t : State} (h : t.senseSide = s.senseSide) (n : SenseByte) :
    senseByte n t = senseByte n s := by
  obtain ⟨hone, htwo, -⟩ := State.senseSide_eq_iff.mp h
  cases n with
  | one => exact hone
  | two => exact htwo

/-- CLEAR_FAULT leaves no sense bit that was not there. -/
theorem senseByte_clearAbsentFaults_getLsbD (n : SenseByte) (s : State) (b : Nat) :
    (senseByte n (clearAbsentFaults s)).getLsbD b =
      ((senseByte n s).getLsbD b && (faultPresent n s.config).getLsbD b) := by
  cases n with
  | one => exact clearBits_not_getLsbD s.senseByte1 s.config.faultPresent1 b
  | two => exact clearBits_not_getLsbD s.senseByte2 s.config.faultPresent2 b

/-- Everything a state rule can do to a sense byte: leave it, zero it by re-initialization, or clear bits by
CLEAR_FAULT. -/
theorem stateRule_senseByte {smp : Sample} {s t : State} (h : stateRule smp s = .next t) (n : SenseByte) :
    senseByte n t = senseByte n s ∨
      (s.protocolState = .connected ∧ smp.enable = false ∧ senseByte n t = 0#8) ∨
      (s.protocolState = .executeCommand ∧ decode s.config.codes s.cmd = .clearFault ∧
        ∀ b, (senseByte n t).getLsbD b = ((senseByte n s).getLsbD b && (faultPresent n s.config).getLsbD b)) := by
  cases stateRule_effect h with
  | handshake hmove =>
    refine .inl (senseByte_of_senseSide ?_ n)
    rw [hmove.frame]
    rfl
  | reinitialized hp henable => exact .inr (.inl ⟨hp, henable, by cases n <;> rfl⟩)
  | executed hp hexec =>
    by_cases hi : decode s.config.codes s.cmd = .clearFault
    · rw [hi] at hexec
      cases (exec_clearFault _).symm.trans hexec
      refine .inr (.inr ⟨hp, hi, fun b => ?_⟩)
      have hbyte := senseByte_clearAbsentFaults_getLsbD n
        (assertBusyIf (commandIsTimeDependent s.config.codes s.cmd) s) b
      cases n <;> exact hbyte
    · exact .inl (senseByte_of_senseSide (exec_senseSide hexec hi) n)
  | completed _ _ _ => exact .inl (senseByte_of_senseSide (schedComplete_senseSide s) n)
  | polledEmpty _ _ => exact .inl (senseByte_of_senseSide rfl n)

/-- Settles O28: the three things a state rule can do to a sense byte, which the common phases leave. -/
theorem noCycleSetsASenseBit : Obligations.NoCycleSetsASenseBit := by
  intro smp dt s t n b h
  obtain ⟨u, hrule, rfl⟩ := cycle_next h
  have hcommon := senseByte_of_senseSide (commonPhases_senseSide smp dt s) n
  have hsnapshot : senseByte n { u with previousPins := smp } = senseByte n u := senseByte_of_senseSide rfl n
  have hcases := stateRule_senseByte hrule n
  rw [hcommon, commonPhases_protocolState, commonPhases_config, commonPhases_cmd] at hcases
  rw [hsnapshot]
  rcases hcases with hbyte | ⟨hp, henable, hbyte⟩ | ⟨hp, hi, hbits⟩
  · rw [hbyte]
    exact ⟨id, fun hset hclear => absurd (hset.symm.trans hclear) Bool.noConfusion⟩
  · rw [hbyte, BitVec.getLsbD_zero]
    exact ⟨nofun, fun _ _ => .inl ⟨hp, henable⟩⟩
  · rw [hbits, Bool.and_eq_true]
    exact ⟨And.left, fun _ _ => .inr ⟨hp, hi⟩⟩

/-- The condition, once pending, is cleared by the two clears alone, which have no operand to be illegal. -/
theorem alarmsAfter_clears_attention_iff (i : Instr) {s : State} (hset : s.attentionPending = true) :
    (alarmsAfter i s).2 = false ↔ i = .clearFault ∨ i = .clearAttention := by
  constructor
  · rw [alarmsAfter]
    split_ifs with hraises hfault hattention
    · nofun
    · exact fun _ => .inl hfault
    · exact fun _ => .inr hattention
    · simp [State.alarms, hset]
  · rintro (rfl | rfl) <;> rfl

/-- Settles O30: in a cycle, what each protocol state does to the condition. -/
theorem attentionFallsExactlyAtTheClears : Obligations.AttentionFallsExactlyAtTheClears := by
  intro smp dt s t hcycle hset
  change t.alarms.2 = false ↔ _
  rcases cycle_alarms hcycle with ⟨hp, ht⟩ | ⟨hp, ht⟩ | ⟨hp, ht⟩ | ⟨hconnected, hexecute, -, ht⟩ <;> rw [ht]
  · cases smp.enable <;> simp [hp, State.alarms, hset]
  · simp [hp, alarmsAfter_clears_attention_iff _ hset]
  · simp [hp, hset]
  · simp [hconnected, hexecute, State.alarms, hset]

end Sys2Proof.Machine

/-! PROOF. The two transactions of a synchronous command (30_encoding.md sections 6 and 8): the samples of R94 one cycle
after another, from SELECTED back to SELECTED. -/

namespace Sys2Proof.Machine

/-! ### Single cycles of a run -/

/-- A step that goes on is the first of a run. -/
theorem run_succ_of_next {M : Host.Core} {s t : M.State} (h : M.step s = .next t) (k : Nat) :
    M.run (k + 1) s = M.run k t := by
  rw [Host.Core.run, h]

/-- A run whose next input is a cycle that goes on: the rest of it runs from what the cycle leaves. -/
theorem run_of_cycle {s t : State} {smp : Sample} {dt : Time} {rest : List Input} (ha : s.config.admissible = true)
    (hi : s.inputs = .cycle smp dt :: rest) (h : cycle smp dt { s with inputs := rest } = .next t) (k : Nat) :
    Host.Core.run Sys2Proof.core (k + 1) s = Host.Core.run Sys2Proof.core k t := by
  have hstep : Sys2Proof.core.step s = .next t := (step_of_listed ha hi).trans h
  exact run_succ_of_next hstep k

/-- With no registration active and no gate up, the common phases write the direction and the acknowledge alone. -/
theorem commonPhases_of_calm {smp : Sample} {s : State} (dt : Time) (hactive : s.schedActive = false)
    (hread : smp.readGate = false) (hwrite : smp.writeGate = false) :
    commonPhases smp dt s = { s with
      busDrive := smp.dir == .d2h
      ackOut := if !smp.sel && !smp.cmdReq && !smp.paramReq then false else s.ackOut } := by
  rw [commonPhases_eq]
  simp [hactive, hread, hwrite]

/-- A command that is not time-dependent leaves the busy line (R118). -/
theorem assertBusyIf_false (s : State) : assertBusyIf false s = s := by
  rw [assertBusyIf, Bool.or_false]

/-- The cycle of EXECUTE_COMMAND for a code that is not time-dependent (R118). -/
theorem cycle_of_synchronous {smp : Sample} {dt : Time} {s u : State} (hp : s.protocolState = .executeCommand)
    (htd : commandIsTimeDependent s.config.codes s.cmd = false)
    (h : exec (decode s.config.codes s.cmd) (commonPhases smp dt s) = .next u) :
    cycle smp dt s = .next { u with
      protocolState := if commandIsParamOut s.cmd then .selected else .awaitingParamIn, previousPins := smp } := by
  have hrule : stateRule smp (commonPhases smp dt s) =
      .next { u with protocolState := if commandIsParamOut s.cmd then .selected else .awaitingParamIn } := by
    rw [stateRule_commonPhases_executeCommand smp dt hp, ruleExecuteCommand, commonPhases_config, commonPhases_cmd, htd,
      assertBusyIf_false, h, afterExecute, htd]
    rfl
  exact cycle_of_stateRule hrule

/-- The handshake as a host-to-device cycle of a transaction leaves it: the inputs after it, the protocol state, the
snapshot and the acknowledge. -/
def State.handshakeAt (s : State) (rest : List Input) (p : ProtocolState) (pins : Sample) (ack : Bool) : State :=
  { s with inputs := rest, protocolState := p, previousPins := pins, ackOut := ack, busDrive := false }

section
variable {s : State} {dt : Time} {rest : List Input}

/-- The two samples of the code: the request, then the latch of the code, acknowledged (R110, R116). -/
theorem run_of_code {c : Byte} (ha : s.config.admissible = true) (hactive : s.schedActive = false)
    (hp : s.protocolState = .selected)
    (hi : s.inputs = .cycle (commandSample c) dt :: .cycle (commandSample c) dt :: rest) (k : Nat) :
    Host.Core.run Sys2Proof.core (k + 2) s =
      Host.Core.run Sys2Proof.core k ({ s with cmd := c }.handshakeAt rest
        (if commandIsParamOut c then .awaitingParamOut else .executeCommand) (commandSample c) true) := by
  have hrequest := (selectedRequestBeforeGates (commandSample c) dt
    { s with inputs := .cycle (commandSample c) dt :: rest } hp).1 ⟨rfl, rfl⟩
  rw [commonPhases_of_calm (s := { s with inputs := .cycle (commandSample c) dt :: rest }) dt hactive rfl rfl]
    at hrequest
  have hlatch := cycle_of_readCommand (commandSample c) dt
    (s := s.handshakeAt rest .readCommand (commandSample c) s.ackOut) rfl
  rw [commonPhases_of_calm (s := s.handshakeAt rest .readCommand (commandSample c) s.ackOut) dt hactive rfl rfl]
    at hlatch
  exact (run_of_cycle ha hi hrequest (k + 1)).trans (run_of_cycle
    (s := s.handshakeAt (.cycle (commandSample c) dt :: rest) .readCommand (commandSample c) s.ackOut) ha rfl hlatch k)

/-- The idle sample, which drops the acknowledge, and the sample of the parameter, which is latched (R102, R117). -/
theorem run_of_param {p : Byte} (ha : s.config.admissible = true) (hactive : s.schedActive = false)
    (hp : s.protocolState = .awaitingParamOut)
    (hi : s.inputs = .cycle Sample.default dt :: .cycle (paramOutSample p) dt :: rest) (k : Nat) :
    Host.Core.run Sys2Proof.core (k + 2) s =
      Host.Core.run Sys2Proof.core k
        ({ s with paramOut := p }.handshakeAt rest .executeCommand (paramOutSample p) true) := by
  have hidle := (paramOutLatchedOnRequest Sample.default dt
    { s with inputs := .cycle (paramOutSample p) dt :: rest } hp).2.1 (by decide)
  rw [commonPhases_of_calm (s := { s with inputs := .cycle (paramOutSample p) dt :: rest }) dt hactive rfl rfl]
    at hidle
  have hlatch := (paramOutLatchedOnRequest (paramOutSample p) dt
    (s.handshakeAt rest s.protocolState Sample.default false) hp).1 ⟨rfl, rfl⟩
  rw [commonPhases_of_calm (s := s.handshakeAt rest s.protocolState Sample.default false) dt hactive rfl rfl] at hlatch
  exact (run_of_cycle ha hi hidle (k + 1)).trans (run_of_cycle
    (s := s.handshakeAt (.cycle (paramOutSample p) dt :: rest) s.protocolState Sample.default false) ha rfl hlatch k)

/-- The idle sample in EXECUTE_COMMAND drops the acknowledge and runs the command (R118). -/
theorem run_of_command {u : State} (ha : s.config.admissible = true) (hactive : s.schedActive = false)
    (hp : s.protocolState = .executeCommand) (hi : s.inputs = .cycle Sample.default dt :: rest)
    (htd : commandIsTimeDependent s.config.codes s.cmd = false)
    (hexec : exec (decode s.config.codes s.cmd) (s.handshakeAt rest .executeCommand s.previousPins false) = .next u)
    (k : Nat) :
    Host.Core.run Sys2Proof.core (k + 1) s =
      Host.Core.run Sys2Proof.core k { u with
        protocolState := if commandIsParamOut s.cmd then .selected else .awaitingParamIn
        previousPins := Sample.default } := by
  have hcommon := commonPhases_of_calm (smp := Sample.default) (s := { s with inputs := rest }) dt hactive rfl rfl
  have hstate : commonPhases Sample.default dt { s with inputs := rest } =
      s.handshakeAt rest .executeCommand s.previousPins false := by
    rw [hcommon, ← hp]
    rfl
  have hcycle : cycle Sample.default dt { s with inputs := rest } = _ :=
    cycle_of_synchronous hp htd (hstate ▸ hexec)
  exact run_of_cycle ha hi hcycle k

end

/-! ### The two transactions -/

/-- Settles O59: the code twice, the idle sample, the parameter, and the command at the last sample. -/
theorem outTransactionRunsTheCommandOnce : Obligations.OutTransactionRunsTheCommandOnce := by
  intro s c p dt rest ha hp hactive hclass htd hi
  obtain ⟨u, hexec, -⟩ := exec_completes (decode s.config.codes c)
    ({ s with cmd := c, paramOut := p }.handshakeAt rest .executeCommand (paramOutSample p) false)
  refine ⟨u, hexec, ?_⟩
  have hcode := run_of_code ha hactive hp hi 3
  rw [hclass, if_pos rfl] at hcode
  have hparam := run_of_param (p := p) (dt := dt) (rest := .cycle Sample.default dt :: rest)
    (s := { s with cmd := c }.handshakeAt
      (.cycle Sample.default dt :: .cycle (paramOutSample p) dt :: .cycle Sample.default dt :: rest)
      .awaitingParamOut (commandSample c) true) ha hactive rfl rfl 1
  have hcommand := run_of_command (dt := dt) (rest := rest)
    (s := { s with cmd := c, paramOut := p }.handshakeAt (.cycle Sample.default dt :: rest) .executeCommand
      (paramOutSample p) true) ha hactive rfl rfl htd hexec 0
  have hcmd : ({ s with cmd := c, paramOut := p }.handshakeAt (.cycle Sample.default dt :: rest) .executeCommand
      (paramOutSample p) true).cmd = c := rfl
  rw [hcmd, hclass, if_pos rfl] at hcommand
  exact (hcode.trans hparam).trans hcommand

/-- What the request for the response leaves: the response driven and acknowledged, the status and the fault set as they
were. -/
theorem cycle_delivers_response {s : State} (dt : Time) (hp : s.protocolState = .awaitingParamIn)
    (htd : commandIsTimeDependent s.config.codes s.cmd = false) :
    ∃ t, cycle paramInSample dt s = .next t ∧ drivenByte t = some s.paramIn ∧ t.ackOut = true ∧
      t.protocolState = .selected ∧ t.generalStatus = s.generalStatus ∧ t.config = s.config ∧ t.inputs = s.inputs ∧
      t.modelFaults = s.modelFaults := by
  obtain ⟨t, hcycle, rfl, hdriven⟩ := (paramInSentOnRequest paramInSample dt s hp).1 ⟨rfl, rfl⟩
  refine ⟨_, hcycle, hdriven, rfl, if_neg (by simp [htd]), commonPhases_generalStatus _ dt s,
    commonPhases_config _ dt s, commonPhases_inputs _ dt s, ?_⟩
  simp [paramInSample, Sample.default, Sample.allLow]

/-- The last sample of `INCMD` (R94): the idle one, device to host. -/
def idleInSample : Sample := { Sample.default with dir := .d2h }

/-- What it leaves in SELECTED: the acknowledge down, the fault set as it was (R102, R115). -/
theorem cycle_idle_drops_ack {s : State} (dt : Time) (hp : s.protocolState = .selected) :
    ∃ t, cycle idleInSample dt s = .next t ∧ t.protocolState = .selected ∧ t.ackOut = false ∧ t.inputs = s.inputs ∧
      t.modelFaults = s.modelFaults := by
  refine ⟨_, (radialStatusAndIdle idleInSample dt s hp rfl rfl).2 rfl (by decide),
    (commonPhases_protocolState _ dt s).trans hp, ?_, commonPhases_inputs _ dt s, ?_⟩ <;>
    simp [idleInSample, Sample.default, Sample.allLow]

/-- Settles O60: the code twice, the command at the idle sample, then the response to the parameter request, and the
idle sample that drops the acknowledge. -/
theorem inTransactionDeliversTheResponse : Obligations.InTransactionDeliversTheResponse := by
  intro s c dt rest ha hp hactive hclass htd hi
  obtain ⟨u, hexec, hside⟩ := exec_completes (decode s.config.codes c)
    ({ s with cmd := c }.handshakeAt (((Transaction.inCmd c).inputs dt).drop 3 ++ rest) .executeCommand
      (commandSample c) false)
  simp only [State.busSide, BusSide.mk.injEq] at hside
  obtain ⟨hconfig, hinputs, -, -, -, -, hcmd, -, -, -, -, -, hfaults, -⟩ := hside
  have hconfig : u.config = s.config := hconfig
  have hcmd : u.cmd = c := hcmd
  have hcommand (k : Nat) := run_of_command (dt := dt) (rest := ((Transaction.inCmd c).inputs dt).drop 3 ++ rest)
    (s := { s with cmd := c }.handshakeAt
      (.cycle Sample.default dt :: (((Transaction.inCmd c).inputs dt).drop 3 ++ rest)) .executeCommand
      (commandSample c) true) ha hactive rfl rfl htd hexec k
  have hafter (k : Nat) : Host.Core.run Sys2Proof.core (k + 3) s =
      Host.Core.run Sys2Proof.core k { u with protocolState := .awaitingParamIn, previousPins := Sample.default } := by
    have hcode := run_of_code ha hactive hp hi (k + 1)
    have hnext : (if commandIsParamOut c then ProtocolState.selected else .awaitingParamIn) = .awaitingParamIn :=
      if_neg (by simp [hclass])
    rw [hclass, if_neg Bool.false_ne_true] at hcode
    rw [← hnext]
    exact hcode.trans (hcommand k)
  obtain ⟨t₄, hcycle₄, hdriven, hack, hstate, hstatus, hconfig₄, hinputs₄, hfaults₄⟩ := cycle_delivers_response
    (s := { u with
      inputs := .cycle idleInSample dt :: rest
      protocolState := .awaitingParamIn
      previousPins := Sample.default }) dt rfl (by rw [hconfig, hcmd]; exact htd)
  obtain ⟨t₅, hcycle₅, hstate₅, hack₅, hinputs₅, hfaults₅⟩ :=
    cycle_idle_drops_ack (s := { t₄ with inputs := rest }) dt hstate
  have hresponse (k : Nat) := run_of_cycle (s := { u with
    protocolState := .awaitingParamIn, previousPins := Sample.default }) (hconfig ▸ ha) hinputs hcycle₄ k
  have hadmissible : t₄.config.admissible = true := by
    rw [hconfig₄, hconfig]
    exact ha
  have hlast := run_of_cycle hadmissible hinputs₄ hcycle₅ 0
  exact ⟨u, t₄, t₅, hexec, (hafter 1).trans (hresponse 0), hdriven, hack, hstate, hstatus,
    ((hafter 2).trans (hresponse 1)).trans hlast, hstate₅, hack₅, hinputs₅, hfaults₅.trans (hfaults₄.trans hfaults)⟩

end Sys2Proof.Machine
